-- ==== Sys2Proof/Word.lean ====
section
/-! DEFINITION. The plain words of FDEC (spec/00_scope.md R6): every value is unsigned, bits are numbered from 0. -/

namespace Sys2Proof

/-- The level of a 1-bit pin or latch, 0 (`false`) or 1 (`true`) (R7). -/
abbrev Level := Bool

/-- A 32-bit frame as the accumulator assembles it (R9, R70). -/
abbrev Frame := BitVec 32

/-- The 64-bit result `RD_DATA[63:0]` of a read (R79). -/
abbrev RdWord := BitVec 64

/-- A 4-bit nibble of a hex rendering (R76, R137). -/
abbrev Nibble := BitVec 4

end Sys2Proof
end

