-- ==== Sys2Proof/Syntax.lean ====
section
/-! DEFINITION. The operations of FDEC, one constructor per row of spec/opcode_table.json, and the plain types
their operands and results are made of (spec/30_encoding.md). FDEC has no instruction set: its operations stand
where instructions would (R1). -/

namespace Sys2Proof

/-- The values of the 3-bit register PHASE, one constructor per code (R22, R87). `unused` is code 111. -/
inductive Phase where
  | idle | loadLo | loadHi | clkLo | clkHi | sample | finish | unused
  deriving DecidableEq, Repr

/-- The mode class MCLS (R141). -/
inductive ModeClass where
  | err | res | acv | dcv
  deriving DecidableEq, Repr

/-- The sign class SIGN (R142). -/
inductive SignClass where
  | noSign | plus | minus | ac
  deriving DecidableEq, Repr

/-- The published reading, SLOT (R31). RAW is 26 bits kept zero-extended to 32; DVAL is stored in 16 bits (D27). -/
structure Reading where
  raw   : BitVec 32
  mode  : BitVec 3
  range : BitVec 3
  pol   : BitVec 2
  draw  : BitVec 17
  dval  : BitVec 16
  deriving DecidableEq, Repr

/-- The input of one step (R35): an ACQ step sees the levels of RST, RDY and SDATA; a read step presents SEL.
Each step is the step of one agent, so an input is one or the other (R193). -/
inductive Input where
  | acq (rst rdy sdata : Level)
  | read (sel : BitVec 4)
  deriving DecidableEq, Repr

/-- The three ways an operation is selected (R77). -/
inductive Format where
  | acqIn | asel | sel
  deriving DecidableEq, Repr

/-- A selector word: `{RST, RDY, SDATA}`, `ASEL = {PHASE, RISE}` or `SEL` (R77 to R79). -/
inductive Selector where
  | acqIn (w : BitVec 3)
  | asel (w : BitVec 4)
  | sel (w : BitVec 4)
  deriving DecidableEq, Repr

/-- A row of the opcode table: an operation takes the selector words `w` with `w &&& mask = pattern`. -/
structure OpcodeRow where
  format  : Format
  mask    : BitVec 4
  pattern : BitVec 4
  deriving DecidableEq, Repr

/-- The operations. An operand is a bit of the selector that the row leaves open (`x` or `r` in the table):
none of them takes part in what the operation does. The levels an operation reads are the pins of the state. -/
inductive Instr where
  | reset (rdy sdata : Level)
  | acqIdle
  | acqStart
  | acqLoadLo (rise : Level)
  | acqLoadHi (rise : Level)
  | acqClkLo (rise : Level)
  | acqClkHi (rise : Level)
  | acqSample (rise : Level)
  | acqFinish (rise : Level)
  | phaseUnreachable (rise : Level)
  | rdSnap
  | rdMode
  | rdRange
  | rdPol
  | rdDraw
  | rdDval
  | rdRaw
  | rdMcls
  | rdSign
  | reserved1001
  | reserved101x (x : Level)
  | reserved11xx (xx : BitVec 2)
  deriving DecidableEq, Repr

/-- A line of a stimulus program (R85): `RST`, `ACQ rdy= sd=`, `XFER f rdy= steps=a..b`, `RD <select>`. -/
inductive StimLine where
  | rst
  | acq (rdy sd : Level)
  | xfer (frame : Frame) (rdy : Level) (first last : Nat)
  | rd (sel : BitVec 4)
  deriving DecidableEq, Repr

/-- What a consumer's query may need of a reading (R86). -/
inductive ReadingPart where
  | mode | range | raw | draw | dval | mcls | sign
  deriving DecidableEq, Repr

/-- The rows of the query vocabulary (R86). `noRead` stands for `*idn?`, `:syst:err?` and `:debug:exit`. -/
inductive Query where
  | mode | voltageRange | resistanceRange | raw | display | measureVoltage | measureResistance | noRead
  deriving DecidableEq, Repr

end Sys2Proof
end

