-- ==== Sys2Proof/WellFormed.lean ====
section
/-! DEFINITION. What a well-formed term is. The operands of `Instr` are typed exactly as wide as the encoding, so
there is nothing to refuse in an instruction; what a client may present at the read port has a bound. -/

namespace Sys2Proof

/-- Every operation is well formed: each operand has exactly the width its row leaves open. -/
def Instr.wellFormed : Instr → Bool
  | .reset _ _ | .acqIdle | .acqStart | .acqLoadLo _ | .acqLoadHi _ | .acqClkLo _ | .acqClkHi _ | .acqSample _
  | .acqFinish _ | .phaseUnreachable _ | .rdSnap | .rdMode | .rdRange | .rdPol | .rdDraw | .rdDval | .rdRaw
  | .rdMcls | .rdSign | .reserved1001 | .reserved101x _ | .reserved11xx _ => true

/-- A read presents a defined select, `0x0` to `0x8` (R79, R196: a client may issue every defined select).
Any levels may stand on the pins of an ACQ step (R35). -/
def Input.wellFormed : Input → Bool
  | .acq _ _ _ => true
  | .read sel => decide (sel.toNat ≤ 8)

/-- The input of an ACQ step, as against a read step. -/
def Input.isAcq : Input → Bool
  | .acq _ _ _ => true
  | .read _ => false

/-- A stimulus line is one the notation has: `XFER` names transfer steps 1 to 99 in order, `RD` a defined select (R85). -/
def StimLine.wellFormed : StimLine → Bool
  | .rst => true
  | .acq _ _ => true
  | .xfer _ _ first last => decide (1 ≤ first) && decide (first ≤ last) && decide (last ≤ 99)
  | .rd sel => decide (sel.toNat ≤ 8)

end Sys2Proof
end

