-- ==== Sys2Proof/Decode.lean ====
section
/-! DEFINITION. Selectors to operations, and back (spec/30_encoding.md R77 to R79, R81, R87; opcode_table.json).
`decodeAsel` and `decodeSel` are the hardware's own selection: total, and a step uses them. A byte that carries a
selector with its format is the model's own carrier (log 6), since FDEC stores no instruction. -/

namespace Sys2Proof

/-- The code of a phase (R87). -/
def phaseCode : Phase → BitVec 3
  | .idle => 0b000#3
  | .loadLo => 0b001#3
  | .loadHi => 0b010#3
  | .clkLo => 0b011#3
  | .clkHi => 0b100#3
  | .sample => 0b101#3
  | .finish => 0b110#3
  | .unused => 0b111#3

/-- The phase of a code (R87). -/
def phaseOfCode (c : BitVec 3) : Phase :=
  match c.toNat with
  | 0 => .idle
  | 1 => .loadLo
  | 2 => .loadHi
  | 3 => .clkLo
  | 4 => .clkHi
  | 5 => .sample
  | 6 => .finish
  | _ => .unused

/-- The operation of an ACQ step, by phase and RISE. RISE takes part only in IDLE (R78). -/
def acqOperation (p : Phase) (rise : Level) : Instr :=
  match p with
  | .idle => if rise then .acqStart else .acqIdle
  | .loadLo => .acqLoadLo rise
  | .loadHi => .acqLoadHi rise
  | .clkLo => .acqClkLo rise
  | .clkHi => .acqClkHi rise
  | .sample => .acqSample rise
  | .finish => .acqFinish rise
  | .unused => .phaseUnreachable rise

/-- `ASEL[3:0] = {PHASE[2:0], RISE}` (R78). -/
def aselWord (p : Phase) (rise : Level) : BitVec 4 := phaseCode p ++ BitVec.ofBool rise

/-- The operation an ASEL word selects (R78). -/
def decodeAsel (w : BitVec 4) : Instr :=
  acqOperation (phaseOfCode (w.extractLsb' 1 3)) (w.getLsbD 0)

/-- The operation a SEL code selects (R79, R81). -/
def decodeSel (w : BitVec 4) : Instr :=
  match w.toNat with
  | 0 => .rdSnap
  | 1 => .rdMode
  | 2 => .rdRange
  | 3 => .rdPol
  | 4 => .rdDraw
  | 5 => .rdDval
  | 6 => .rdRaw
  | 7 => .rdMcls
  | 8 => .rdSign
  | 9 => .reserved1001
  | 10 => .reserved101x false
  | 11 => .reserved101x true
  | _ => .reserved11xx (w.extractLsb' 0 2)

/-- Why a word is not an operation. -/
inductive Reject where
  /-- there is no byte to read -/
  | noByte
  /-- the byte names none of the three formats -/
  | unknownFormat
  /-- a byte of format ACQ_IN has bit 3 set, above the three input levels -/
  | acqInTooWide
  /-- an ACQ_IN word with RST = 0 is no RESET: its operation depends on PHASE and RISE, so ASEL selects it (R78) -/
  | rstLow
  deriving DecidableEq, Repr

/-- The operation a selector selects (R77). -/
def decodeSelector : Selector → Except Reject Instr
  | .acqIn w => if w.getLsbD 2 then .ok (.reset (w.getLsbD 1) (w.getLsbD 0)) else .error .rstLow
  | .asel w => .ok (decodeAsel w)
  | .sel w => .ok (decodeSel w)

/-- The selector a byte carries: bits 3:0 the selector word, bits 7:4 its format, 0 for SEL, 1 for ASEL and 2 for
ACQ_IN (DESIGN CHOICE, log 6). -/
def byteSelector (b : BitVec 8) : Except Reject Selector :=
  match (b.extractLsb' 4 4).toNat with
  | 0 => .ok (.sel (b.extractLsb' 0 4))
  | 1 => .ok (.asel (b.extractLsb' 0 4))
  | 2 => if b.getLsbD 3 then .error .acqInTooWide else .ok (.acqIn (b.extractLsb' 0 3))
  | _ => .error .unknownFormat

/-- The operation a byte stands for. -/
def decodeByte (b : BitVec 8) : Except Reject Instr :=
  match byteSelector b with
  | .ok sel => decodeSelector sel
  | .error e => .error e

/-- Decoding from a list of bytes: one operation and the rest. -/
def decode : List (BitVec 8) → Except Reject (Instr × List (BitVec 8))
  | [] => .error .noByte
  | b :: rest =>
    match decodeByte b with
    | .ok i => .ok (i, rest)
    | .error e => .error e

/-! ### The encoder, from the same tables. -/

/-- The selector of an operation, from the `encoding` column of opcode_table.json. -/
def encodeSelector : Instr → Selector
  | .reset rdy sdata => .acqIn (0b1#1 ++ BitVec.ofBool rdy ++ BitVec.ofBool sdata)
  | .acqIdle => .asel 0b0000#4
  | .acqStart => .asel 0b0001#4
  | .acqLoadLo r => .asel (0b001#3 ++ BitVec.ofBool r)
  | .acqLoadHi r => .asel (0b010#3 ++ BitVec.ofBool r)
  | .acqClkLo r => .asel (0b011#3 ++ BitVec.ofBool r)
  | .acqClkHi r => .asel (0b100#3 ++ BitVec.ofBool r)
  | .acqSample r => .asel (0b101#3 ++ BitVec.ofBool r)
  | .acqFinish r => .asel (0b110#3 ++ BitVec.ofBool r)
  | .phaseUnreachable r => .asel (0b111#3 ++ BitVec.ofBool r)
  | .rdSnap => .sel 0x0#4
  | .rdMode => .sel 0x1#4
  | .rdRange => .sel 0x2#4
  | .rdPol => .sel 0x3#4
  | .rdDraw => .sel 0x4#4
  | .rdDval => .sel 0x5#4
  | .rdRaw => .sel 0x6#4
  | .rdMcls => .sel 0x7#4
  | .rdSign => .sel 0x8#4
  | .reserved1001 => .sel 0b1001#4
  | .reserved101x x => .sel (0b101#3 ++ BitVec.ofBool x)
  | .reserved11xx xx => .sel (0b11#2 ++ xx)

/-- The byte that carries a selector (log 6). -/
def selectorByte : Selector → BitVec 8
  | .sel w => 0x0#4 ++ w
  | .asel w => 0x1#4 ++ w
  | .acqIn w => 0x2#4 ++ 0b0#1 ++ w

/-- The bytes of an operation. -/
def encode (i : Instr) : List (BitVec 8) := [selectorByte (encodeSelector i)]

/-- The opcode table's row of an operation: format, mask and match, as opcode_table.json gives them. -/
def opcodeRow : Instr → OpcodeRow
  | .reset _ _ => ⟨.acqIn, 0x4#4, 0x4#4⟩
  | .acqIdle => ⟨.asel, 0xF#4, 0x0#4⟩
  | .acqStart => ⟨.asel, 0xF#4, 0x1#4⟩
  | .acqLoadLo _ => ⟨.asel, 0xE#4, 0x2#4⟩
  | .acqLoadHi _ => ⟨.asel, 0xE#4, 0x4#4⟩
  | .acqClkLo _ => ⟨.asel, 0xE#4, 0x6#4⟩
  | .acqClkHi _ => ⟨.asel, 0xE#4, 0x8#4⟩
  | .acqSample _ => ⟨.asel, 0xE#4, 0xA#4⟩
  | .acqFinish _ => ⟨.asel, 0xE#4, 0xC#4⟩
  | .phaseUnreachable _ => ⟨.asel, 0xE#4, 0xE#4⟩
  | .rdSnap => ⟨.sel, 0xF#4, 0x0#4⟩
  | .rdMode => ⟨.sel, 0xF#4, 0x1#4⟩
  | .rdRange => ⟨.sel, 0xF#4, 0x2#4⟩
  | .rdPol => ⟨.sel, 0xF#4, 0x3#4⟩
  | .rdDraw => ⟨.sel, 0xF#4, 0x4#4⟩
  | .rdDval => ⟨.sel, 0xF#4, 0x5#4⟩
  | .rdRaw => ⟨.sel, 0xF#4, 0x6#4⟩
  | .rdMcls => ⟨.sel, 0xF#4, 0x7#4⟩
  | .rdSign => ⟨.sel, 0xF#4, 0x8#4⟩
  | .reserved1001 => ⟨.sel, 0xF#4, 0x9#4⟩
  | .reserved101x _ => ⟨.sel, 0xE#4, 0xA#4⟩
  | .reserved11xx _ => ⟨.sel, 0xC#4, 0xC#4⟩

/-- A selector's format and its word, widened to 4 bits. -/
def selectorBits : Selector → Format × BitVec 4
  | .acqIn w => (.acqIn, w.setWidth 4)
  | .asel w => (.asel, w)
  | .sel w => (.sel, w)

/-- A selector matches a row of the opcode table. -/
def rowMatches (row : OpcodeRow) (sel : Selector) : Bool :=
  decide ((selectorBits sel).1 = row.format) && decide ((selectorBits sel).2 &&& row.mask = row.pattern)

/-! ### The host's words. -/

/-- The selector of a word of the opcode table, numbered as the table numbers it. Only ACQ_IN is 3 bits wide. A
wider word is the carrier byte; the table's bare 4-bit words have no format bits, so the byte's high half is 0 and
they are read as SEL codes (log 6). -/
def tableSelector (nbits w : Nat) : Option Selector :=
  if nbits = 3 then
    if w < 8 then some (.acqIn (BitVec.ofNat 3 w)) else none
  else if w < 256 then
    match byteSelector (BitVec.ofNat 8 w) with
    | .ok sel => some sel
    | .error _ => none
  else none

/-- The operation the decoder reads from a table word. -/
def decodeTableWord (nbits w : Nat) : Option Instr :=
  match tableSelector nbits w with
  | some sel =>
    match decodeSelector sel with
    | .ok i => some i
    | .error _ => none
  | none => none

end Sys2Proof
end

