-- ==== Sys2Proof/Config.lean ====
section
/-! DEFINITION. The parameters of spec/00_scope.md R5, and the free values: inputs and one register value that the
spec leaves to no law. A free value is a constant with no body, so no proof can see what it is. -/

namespace Sys2Proof.Config

/-- `FRAME_PULSES`: samples of one transfer (R5). -/
abbrev framePulses : Nat := 32

/-- `FRAME_MASK`: the 26 significant bits of a frame (R5, R71). UNVERIFIED against the source's code (log 15). -/
abbrev frameMask : Frame := 0x03FFFFFF#32

/-- `MODE_POS` (R5): the field is 3 bits wide. -/
abbrev modePos : Nat := 22

/-- `POL_POS` (R5): the field is 2 bits wide. -/
abbrev polPos : Nat := 20

/-- `RANGE_POS` (R5): the field is 3 bits wide. -/
abbrev rangePos : Nat := 17

/-- The display field starts at bit 0 and is 17 bits wide (R5 `DISP_MASK`). -/
abbrev drawPos : Nat := 0

/-- The two values of the parameter `DISP_PARSE` (R138): the longest leading run of decimal digits, or, for a
display field with a nibble above 9, a function the model is given. -/
inductive DispParse where
  | prefixRun
  | opaqueFn
  deriving DecidableEq, Repr

/-- `DISP_PARSE = PREFIX`, the default that R5 fixes for this hardware (spec decision D10, log 10). -/
def dispParse : DispParse := .prefixRun

/-- The function `g` of `DISP_PARSE = OPAQUE` (R138): unconstrained. -/
opaque opaqueDval : BitVec 17 → BitVec 16

/-- `AC_SIGN_CHAR`, the consumer's character for the sign class AC (R143, spec decision D11, log 11). -/
def acSignChar : Char := '~'

/-- `N_READERS` less one. OPEN in R5, so it has no value here; no rule depends on it (log 12). -/
opaque moreReaders : Nat

/-- `N_READERS`, an integer of at least 1 (R5, R199). -/
def nReaders : Nat := moreReaders + 1

/-- Free value: ACC after a RESET step, "any 32-bit value" (R36, R210). Its argument is the state's draw counter. -/
opaque freeAcc : Nat → BitVec 32

/-- Free value: which agent moves when no input is scheduled, ACQ (`true`) or a reader (R8: any interleaving). -/
opaque freeAgent : Nat → Bool

/-- Free value: the level HOST puts on RST (R35, R202). -/
opaque freeRst : Nat → Level

/-- Free value: the level ENV puts on RDY (R35). -/
opaque freeRdy : Nat → Level

/-- Free value: the level ENV puts on SDATA (R35). -/
opaque freeSdata : Nat → Level

/-- Free value: the select a client presents (R202: any select at any step). -/
opaque freeSel : Nat → BitVec 4

end Sys2Proof.Config
end

