-- ==== Sys2Proof/Machine/State.lean ====
section
/-! DEFINITION. The state: the tuple S of spec/10_state.md R20, the levels on the input pins, the read port's result,
and the model's own fields that hold what is not yet drawn from the environment. All plain data. -/

namespace Sys2Proof.Machine

/-- The tuple `S` of R20: every piece of state FDEC has, and nothing else. -/
structure Regs where
  /-- PHASE, 3 bits: the action the next ACQ step performs (R22) -/
  phase   : Phase
  /-- CNT, 6 bits: samples taken in the current transfer (R23) -/
  cnt     : BitVec 6
  /-- ACC, 32 bits: the shift accumulator (R24) -/
  acc     : BitVec 32
  /-- LOAD_Q, the latch that drives pin LOAD (R25) -/
  loadQ   : Level
  /-- CLK_Q, the latch that drives pin SCLK (R26) -/
  clkQ    : Level
  /-- LED_Q, the latch that drives pin LED_RDY (R27) -/
  ledQ    : Level
  /-- RDY_PREV, the level of RDY the previous ACQ step saw (R28) -/
  rdyPrev : Level
  /-- SLOT, the single published reading (R31) -/
  slot    : Reading
  deriving DecidableEq, Repr

/-- The levels on the input pins in the step that reads them (R35, R197). Not FDEC's state: `In(P)` reads them. -/
structure Pins where
  rst   : Level
  rdy   : Level
  sdata : Level
  sel   : BitVec 4
  deriving DecidableEq, Repr

/-- The machine: FDEC's state and its surroundings. -/
structure State where
  /-- FDEC's own state -/
  regs   : Regs
  /-- the input pins, as the current step sees them (log 4) -/
  pins   : Pins
  /-- `RD_DATA[63:0]` as the last read step answered it (R160, R197; log 5) -/
  rdData : RdWord
  /-- the inputs of the coming steps, first step first: the interleaving of the agents and the levels and selects
  they choose (R8, R35; log 3) -/
  inputs : List Input
  /-- how many free values have been drawn: the argument of the next one (log 3) -/
  draws  : Nat
  deriving DecidableEq, Repr

/-- FDEC has no fault outcome and raises nothing (R190, R191), so there is no fault. -/
inductive Fault where
  deriving DecidableEq, Repr

/-- Why a step has no meaning (R191: exactly two reasons). -/
inductive Refusal where
  /-- An operation of the table that has no meaning in this model yet. No arm raises it. Safe. -/
  | notModelled (mnemonic : String)
  /-- A read with SEL `0x9` to `0xF`, raised by the three reserved-select operations (R170, R191). Safe: the hardware
  answers 0 and goes on, the model stops, so no claim can rest on the zero. -/
  | reservedSelect
  /-- An ACQ step with PHASE = 111, raised by the operation of that code (R191). Safe: no run from reset reaches it. -/
  | phaseUnreachable
  deriving DecidableEq, Repr

/-- The all-zero reading, FDEC's reading after reset (R36, R211). -/
def Reading.zero : Reading := ⟨0#32, 0#3, 0#3, 0#2, 0#17, 0#16⟩

/-- `S` after RESET (R36). ACC, which R36 leaves unspecified, is 0 here: DESIGN CHOICE, log 1. -/
def Regs.reset : Regs :=
  { phase := .idle, cnt := 0#6, acc := 0#32, loadQ := true, clkQ := true, ledQ := false, rdyPrev := true
    slot := Reading.zero }

/-- The machine right after reset (R36, R212). The pins, `RD_DATA`, the inputs and the draw counter are not in `S`:
their values here are DESIGN CHOICE (logs 3, 4, 5). -/
def State.reset : State :=
  { regs := Regs.reset
    pins := { rst := false, rdy := false, sdata := false, sel := 0x0#4 }
    rdData := 0#64
    inputs := []
    draws := 0 }

end Sys2Proof.Machine
end

