-- ==== Sys2Proof/Machine/Operands.lean ====
section
/-! DEFINITION. The frame decoder and its field functions (spec/41_decode.md), and the read port's data words
(spec/42_readport.md R160). Pure functions: they read their arguments and write nothing. -/

namespace Sys2Proof.Machine

/-! ### Field extractors (R131 to R135) -/

/-- `EXT_RAW(f) = f & 0x03FFFFFF` (R131). -/
def extRaw (f : Frame) : BitVec 32 := f &&& Config.frameMask

/-- `EXT_MODE(f) = f[24:22]` (R132). -/
def extMode (f : Frame) : BitVec 3 := f.extractLsb' Config.modePos 3

/-- `EXT_RANGE(f) = f[19:17]` (R133). -/
def extRange (f : Frame) : BitVec 3 := f.extractLsb' Config.rangePos 3

/-- `EXT_POL(f) = f[21:20]` (R134). -/
def extPol (f : Frame) : BitVec 2 := f.extractLsb' Config.polPos 2

/-- `EXT_DRAW(f) = f[16:0]` (R135). -/
def extDraw (f : Frame) : BitVec 17 := f.extractLsb' Config.drawPos 17

/-! ### Hex rendering (R137, R145) -/

/-- The character of a nibble: `'0'` to `'9'`, then `'A'` to `'F'` (R137; ASCII codes, K1, log 17). -/
def hexChar (n : Nibble) : Char :=
  if n.toNat ≤ 9 then Char.ofNat (0x30 + n.toNat) else Char.ofNat (0x41 + (n.toNat - 10))

/-- Nibble `n_k` of a display field, `zext_20(v)[4k+3:4k]` (R137); `n_4` is 0 or 1 (R76). -/
def displayNibble (v : BitVec 17) (k : Nat) : Nibble := (v.setWidth 20).extractLsb' (4 * k) 4

/-- `HEX5(v)`: five characters, most significant first (R137). -/
def hex5 (v : BitVec 17) : List Char :=
  [hexChar (displayNibble v 4), hexChar (displayNibble v 3), hexChar (displayNibble v 2),
   hexChar (displayNibble v 1), hexChar (displayNibble v 0)]

/-- `HEX8(RAW)`: eight characters, most significant first (R145). -/
def hex8 (raw : BitVec 32) : List Char :=
  [hexChar (raw.extractLsb' 28 4), hexChar (raw.extractLsb' 24 4), hexChar (raw.extractLsb' 20 4),
   hexChar (raw.extractLsb' 16 4), hexChar (raw.extractLsb' 12 4), hexChar (raw.extractLsb' 8 4),
   hexChar (raw.extractLsb' 4 4), hexChar (raw.extractLsb' 0 4)]

/-! ### The display conversion (R138, R139) -/

/-- `'0' ≤ c ≤ '9'` (R138). -/
def isDecimalChar (c : Char) : Bool := decide (0x30 ≤ c.toNat) && decide (c.toNat ≤ 0x39)

/-- `PARSE_DEC` with the value so far: the leading run of decimal digits extends it, anything else stops it (R138). -/
def parseDecFrom (v : Nat) : List Char → Nat
  | [] => v
  | c :: cs => if isDecimalChar c then parseDecFrom (10 * v + (c.toNat - 0x30)) cs else v

/-- `PARSE_DEC(s)` with `DISP_PARSE = PREFIX` (R138). -/
def parseDec (s : List Char) : Nat := parseDecFrom 0 s

/-- Every nibble of the display field is a decimal digit. -/
def allDecimal (v : BitVec 17) : Bool := (hex5 v).all isDecimalChar

/-- `DISP_CONV` under either value of `DISP_PARSE` (R138, R139). -/
def dispConvWith (p : Config.DispParse) (v : BitVec 17) : BitVec 16 :=
  match p with
  | .prefixRun => BitVec.ofNat 16 (parseDec (hex5 v))
  | .opaqueFn => if allDecimal v then BitVec.ofNat 16 (parseDec (hex5 v)) else Config.opaqueDval v

/-- `DISP_CONV(DRAW) = PARSE_DEC(HEX5(DRAW))` for this hardware (R139). -/
def dispConv (v : BitVec 17) : BitVec 16 := dispConvWith Config.dispParse v

/-- `DECODE(f)`: a frame to a whole reading (R130). -/
def decodeFrame (f : Frame) : Reading :=
  { raw := extRaw f
    mode := extMode f
    range := extRange f
    pol := extPol f
    draw := extDraw f
    dval := dispConv (extDraw f) }

end Sys2Proof.Machine
end

