-- ==== Sys2Proof/Machine/Flags.lean ====
section
/-! DEFINITION. FDEC has no stored flags (spec/10_state.md R29): these are the predicates and classes recomputed from
the state whenever they are read, and the read port's data words built from them. -/

namespace Sys2Proof.Machine

/-- `BUSY = (PHASE ≠ IDLE)` (R29). -/
def busy (r : Regs) : Bool := decide (r.phase ≠ .idle)

/-- `RISE = (RDY_PREV = 0) and (In(RDY) = 1)` (R28). -/
def riseOf (r : Regs) (rdy : Level) : Level := !r.rdyPrev && rdy

/-- `MCLS(MODE)` (R141). -/
def mcls (mode : BitVec 3) : ModeClass :=
  match mode.toNat with
  | 1 => .res
  | 2 => .acv
  | 4 => .dcv
  | _ => .err

/-- The code of a mode class (R82). -/
def mclsCode : ModeClass → BitVec 2
  | .err => 0b00#2
  | .res => 0b01#2
  | .acv => 0b10#2
  | .dcv => 0b11#2

/-- `SIGN(MODE, POL)` (R142): POL is ignored unless MODE = 4. -/
def signOf (mode : BitVec 3) (pol : BitVec 2) : SignClass :=
  if mode = 4#3 ∧ pol = 1#2 then .minus
  else if mode = 4#3 then .plus
  else if mode = 2#3 then .ac
  else .noSign

/-- The code of a sign class (R82). -/
def signCode : SignClass → BitVec 2
  | .noSign => 0b00#2
  | .plus => 0b01#2
  | .minus => 0b10#2
  | .ac => 0b11#2

/-- `VOLT_OK(MODE)` (R144). -/
def voltOk (mode : BitVec 3) : Bool := decide (mode = 2#3 ∨ mode = 4#3)

/-- `RES_OK(MODE)` (R144). -/
def resOk (mode : BitVec 3) : Bool := decide (mode = 1#3)

/-- The RD_SNAP word of a reading (R80, R160). -/
def snapWord (r : Reading) : RdWord :=
  r.raw.setWidth 64 ||| (r.dval.setWidth 64 <<< 32) ||| ((mclsCode (mcls r.mode)).setWidth 64 <<< 48)
    ||| ((signCode (signOf r.mode r.pol)).setWidth 64 <<< 50)

/-- The width of what a defined select returns (R53, R79). -/
def selectWidth (sel : BitVec 4) : Nat :=
  match sel.toNat with
  | 0 => 64
  | 1 => 3
  | 2 => 3
  | 3 => 2
  | 4 => 17
  | 5 => 16
  | 6 => 26
  | 7 => 2
  | 8 => 2
  | _ => 0

end Sys2Proof.Machine
end

