-- ==== Sys2Proof/Machine/Ops.lean ====
section
/-! DEFINITION. The named operations over the state (spec/00_scope.md R7), the frame every ACQ step runs in
(spec/40_acquisition.md R100), the frame every read step runs in (spec/42_readport.md R160), and how a step's input is
taken and its operation selected. FDEC takes no exception and returns from none (R190, R194, R195), so there is no
such operation here: its one interrupt-like event is RISE, which only selects ACQ_START. -/

namespace Sys2Proof.Machine

/-! ### Writes of one element of `S` -/

/-- `phase <- p`. -/
def Regs.setPhase (r : Regs) (p : Phase) : Regs := { r with phase := p }

/-- `S.CNT <- c`. -/
def Regs.setCnt (r : Regs) (c : BitVec 6) : Regs := { r with cnt := c }

/-- `S.ACC <- a`. -/
def Regs.setAcc (r : Regs) (a : BitVec 32) : Regs := { r with acc := a }

/-- `S.LOAD_Q <- l`. -/
def Regs.setLoadQ (r : Regs) (l : Level) : Regs := { r with loadQ := l }

/-- `S.CLK_Q <- l`. -/
def Regs.setClkQ (r : Regs) (l : Level) : Regs := { r with clkQ := l }

/-- `S.LED_Q <- l`. -/
def Regs.setLedQ (r : Regs) (l : Level) : Regs := { r with ledQ := l }

/-- `S.RDY_PREV <- l`. -/
def Regs.setRdyPrev (r : Regs) (l : Level) : Regs := { r with rdyPrev := l }

/-- `SlotWrite(v)`: the whole published reading is replaced in one action (R54). -/
def Regs.slotWrite (r : Regs) (v : Reading) : Regs := { r with slot := v }

/-- FDEC's state replaced, its surroundings kept. -/
def State.setRegs (s : State) (r : Regs) : State := { s with regs := r }

/-- `RD_DATA` driven to `v`. -/
def State.setRdData (s : State) (v : RdWord) : State := { s with rdData := v }

/-! ### Reads -/

/-- `SlotRead()`: the whole published reading in one action (R54). -/
def State.slotRead (s : State) : Reading := s.regs.slot

/-- `Out(LOAD)`: an output pin always equals its latch (R7). -/
def State.outLoad (s : State) : Level := s.regs.loadQ

/-- `Out(SCLK)`. -/
def State.outSclk (s : State) : Level := s.regs.clkQ

/-- `Out(LED_RDY)`. -/
def State.outLedRdy (s : State) : Level := s.regs.ledQ

/-! ### The frame of a step -/

/-- What every ACQ step but RESET does: the operation's own writes `f`, computed from the state before the step, and
`S.RDY_PREV <- In(RDY)` (R28, R100). -/
def State.acqWrite (s : State) (f : Regs → Regs) : State :=
  s.setRegs ((f s.regs).setRdyPrev s.pins.rdy)

/-- What every read step does: one `SlotRead()`, and `RD_DATA` a function of the reading (R160). -/
def State.readAnswer (s : State) (f : Reading → RdWord) : State :=
  s.setRdData (f s.slotRead)

/-- The writes of RESET, with `acc` the unspecified value of ACC (R36, R210). -/
def Regs.afterReset (acc : BitVec 32) : Regs :=
  { phase := .idle, cnt := 0#6, acc := acc, loadQ := true, clkQ := true, ledQ := false, rdyPrev := true
    slot := decodeFrame 0#32 }

/-- ACC after one sample: `((ACC << 1) | zext_32(d)) mod 2^32` (R108). -/
def shiftIn (acc : BitVec 32) (d : Level) : BitVec 32 := (acc <<< 1) ||| (BitVec.ofBool d).setWidth 32

/-! ### Taking the input of a step -/

/-- An input drawn from the environment, under no law (R8, R35; log 3). -/
def freeInput (n : Nat) : Input :=
  if Config.freeAgent n then .acq (Config.freeRst n) (Config.freeRdy n) (Config.freeSdata n)
  else .read (Config.freeSel n)

/-- The input of the next step: the first scheduled one, or a free draw where none is scheduled (log 3). -/
def State.nextInput (s : State) : Input :=
  match s.inputs with
  | [] => freeInput s.draws
  | i :: _ => i

/-- The pins with an input on them: an ACQ step sees RST, RDY and SDATA; a read step sees SEL (R197). -/
def Pins.present (p : Pins) : Input → Pins
  | .acq rst rdy sdata => { p with rst := rst, rdy := rdy, sdata := sdata }
  | .read sel => { p with sel := sel }

/-- The state in which the next step's operation runs: its input on the pins, and taken from the schedule. -/
def State.present (s : State) : State :=
  { s with
    pins := s.pins.present s.nextInput
    inputs := s.inputs.tail
    draws := match s.inputs with
      | [] => s.draws + 1
      | _ :: _ => s.draws }

/-- The selector of a step (R77): RST = 1 overrides ASEL (R193, R210). -/
def selectorOf (r : Regs) : Input → Selector
  | .acq rst rdy sdata =>
    if rst then .acqIn (0b1#1 ++ BitVec.ofBool rdy ++ BitVec.ofBool sdata) else .asel (aselWord r.phase (riseOf r rdy))
  | .read sel => .sel sel

/-- The operation of a step (R100, R160): RESET if RST = 1, else what ASEL selects; for a read, what SEL selects. -/
def select (r : Regs) : Input → Instr
  | .acq rst rdy sdata => if rst then .reset rdy sdata else decodeAsel (aselWord r.phase (riseOf r rdy))
  | .read sel => decodeSel sel

/-- The operation of the next step. -/
def State.fetch (s : State) : Instr := select s.regs s.nextInput

/-- The state whose next step is selected by `sel`: the input is put first in the schedule; for an ASEL word PHASE is
set, and RDY and RDY_PREV so that RISE is its bit 0 (log 7). -/
def State.placeSelector (s : State) : Selector → State
  | .acqIn w => { s with inputs := .acq (w.getLsbD 2) (w.getLsbD 1) (w.getLsbD 0) :: s.inputs }
  | .sel w => { s with inputs := .read w :: s.inputs }
  | .asel w =>
    { s with
      regs := { s.regs with
        phase := phaseOfCode (w.extractLsb' 1 3)
        rdyPrev := if w.getLsbD 0 then false else s.regs.rdyPrev }
      inputs := .acq false (w.getLsbD 0) false :: s.inputs }

end Sys2Proof.Machine
end

