-- ==== Sys2Proof/Machine/Acquisition.lean ====
section
/-! DEFINITION. The ACQ operations (spec/40_acquisition.md) and RESET (spec/70_reset_and_hazards.md R210), one meaning
per operation. In none of them does the RISE bit of ASEL change the effect: outside IDLE an edge is dropped (R103). -/

namespace Sys2Proof.Machine

/-- RESET (R210): every element of `S` takes its reset value; ACC takes a free one (log 2). -/
def execReset (s : State) : Host.Outcome State Fault Refusal :=
  .next { s.setRegs (Regs.afterReset (Config.freeAcc s.draws)) with draws := s.draws + 1 }

/-- ACQ_IDLE (R101): wait. -/
def execAcqIdle (s : State) : Host.Outcome State Fault Refusal :=
  .next (s.acqWrite fun r => r.setPhase .idle)

/-- ACQ_START (R102): begin a transfer. ACC is not cleared. -/
def execAcqStart (s : State) : Host.Outcome State Fault Refusal :=
  .next (s.acqWrite fun r => (r.setCnt 0#6).setPhase .loadLo)

/-- ACQ_LOAD_LO (R104). -/
def execAcqLoadLo (s : State) : Host.Outcome State Fault Refusal :=
  .next (s.acqWrite fun r => (r.setLoadQ false).setPhase .loadHi)

/-- ACQ_LOAD_HI (R105). -/
def execAcqLoadHi (s : State) : Host.Outcome State Fault Refusal :=
  .next (s.acqWrite fun r => (r.setLoadQ true).setPhase .clkLo)

/-- ACQ_CLK_LO (R106). -/
def execAcqClkLo (s : State) : Host.Outcome State Fault Refusal :=
  .next (s.acqWrite fun r => (r.setClkQ false).setPhase .clkHi)

/-- ACQ_CLK_HI (R107). -/
def execAcqClkHi (s : State) : Host.Outcome State Fault Refusal :=
  .next (s.acqWrite fun r => (r.setClkQ true).setPhase .sample)

/-- ACQ_SAMPLE (R108): one bit of SDATA into ACC; the 32nd sample ends the burst. CNT is 6 bits wide (log 16). -/
def execAcqSample (s : State) : Host.Outcome State Fault Refusal :=
  .next (s.acqWrite fun r =>
    ((r.setAcc (shiftIn r.acc s.pins.sdata)).setCnt (r.cnt + 1#6)).setPhase
      (if r.cnt + 1#6 = BitVec.ofNat 6 Config.framePulses then .finish else .clkLo))

/-- ACQ_FINISH (R109): mask, decode and publish the frame, toggle the indicator, return to IDLE. -/
def execAcqFinish (s : State) : Host.Outcome State Fault Refusal :=
  .next (s.acqWrite fun r =>
    (((r.slotWrite (decodeFrame r.acc)).setLedQ (!r.ledQ)).setCnt 0#6).setPhase .idle)

/-- An ACQ step with PHASE = 111: refused (R191). -/
def execPhaseUnreachable (_s : State) : Host.Outcome State Fault Refusal :=
  .refused .phaseUnreachable

end Sys2Proof.Machine
end

