-- ==== Sys2Proof/Machine/ReadPort.lean ====
section
/-! DEFINITION. The read-port operations (spec/42_readport.md), one meaning per select. Each is one `SlotRead()` and
writes no element of `S` (R160). -/

namespace Sys2Proof.Machine

/-- RD_SNAP (R161): the whole reading in one word. -/
def execRdSnap (s : State) : Host.Outcome State Fault Refusal :=
  .next (s.readAnswer snapWord)

/-- RD_MODE (R162). -/
def execRdMode (s : State) : Host.Outcome State Fault Refusal :=
  .next (s.readAnswer fun r => r.mode.setWidth 64)

/-- RD_RANGE (R163). -/
def execRdRange (s : State) : Host.Outcome State Fault Refusal :=
  .next (s.readAnswer fun r => r.range.setWidth 64)

/-- RD_POL (R164). -/
def execRdPol (s : State) : Host.Outcome State Fault Refusal :=
  .next (s.readAnswer fun r => r.pol.setWidth 64)

/-- RD_DRAW (R165): the display field before conversion. -/
def execRdDraw (s : State) : Host.Outcome State Fault Refusal :=
  .next (s.readAnswer fun r => r.draw.setWidth 64)

/-- RD_DVAL (R166): the converted display value. -/
def execRdDval (s : State) : Host.Outcome State Fault Refusal :=
  .next (s.readAnswer fun r => r.dval.setWidth 64)

/-- RD_RAW (R167): the masked frame. -/
def execRdRaw (s : State) : Host.Outcome State Fault Refusal :=
  .next (s.readAnswer fun r => r.raw.setWidth 64)

/-- RD_MCLS (R168): the code of the mode class. -/
def execRdMcls (s : State) : Host.Outcome State Fault Refusal :=
  .next (s.readAnswer fun r => (mclsCode (mcls r.mode)).setWidth 64)

/-- RD_SIGN (R169): the code of the sign class, MODE and POL from one `SlotRead()`. -/
def execRdSign (s : State) : Host.Outcome State Fault Refusal :=
  .next (s.readAnswer fun r => (signCode (signOf r.mode r.pol)).setWidth 64)

/-- A read with SEL = 1001: refused (R170, R191; log 8). -/
def execReserved1001 (_s : State) : Host.Outcome State Fault Refusal :=
  .refused .reservedSelect

/-- A read with SEL = 101x: refused (R170, R191; log 8). -/
def execReserved101x (_s : State) : Host.Outcome State Fault Refusal :=
  .refused .reservedSelect

/-- A read with SEL = 11xx: refused (R170, R191; log 8). -/
def execReserved11xx (_s : State) : Host.Outcome State Fault Refusal :=
  .refused .reservedSelect

end Sys2Proof.Machine
end

