-- ==== Sys2Proof/Machine/Dispatch.lean ====
section
/-! DEFINITION. One arm per operation of spec/opcode_table.json. The bits a row leaves open take no part in what the
operation does, so no meaning is given them. -/

namespace Sys2Proof.Machine

def exec (i : Instr) (s : State) : Host.Outcome State Fault Refusal :=
  match i with
  | .reset _ _ => Sys2Proof.Machine.execReset s
  | .acqIdle => Sys2Proof.Machine.execAcqIdle s
  | .acqStart => Sys2Proof.Machine.execAcqStart s
  | .acqLoadLo _ => Sys2Proof.Machine.execAcqLoadLo s
  | .acqLoadHi _ => Sys2Proof.Machine.execAcqLoadHi s
  | .acqClkLo _ => Sys2Proof.Machine.execAcqClkLo s
  | .acqClkHi _ => Sys2Proof.Machine.execAcqClkHi s
  | .acqSample _ => Sys2Proof.Machine.execAcqSample s
  | .acqFinish _ => Sys2Proof.Machine.execAcqFinish s
  | .phaseUnreachable _ => Sys2Proof.Machine.execPhaseUnreachable s
  | .rdSnap => Sys2Proof.Machine.execRdSnap s
  | .rdMode => Sys2Proof.Machine.execRdMode s
  | .rdRange => Sys2Proof.Machine.execRdRange s
  | .rdPol => Sys2Proof.Machine.execRdPol s
  | .rdDraw => Sys2Proof.Machine.execRdDraw s
  | .rdDval => Sys2Proof.Machine.execRdDval s
  | .rdRaw => Sys2Proof.Machine.execRdRaw s
  | .rdMcls => Sys2Proof.Machine.execRdMcls s
  | .rdSign => Sys2Proof.Machine.execRdSign s
  | .reserved1001 => Sys2Proof.Machine.execReserved1001 s
  | .reserved101x _ => Sys2Proof.Machine.execReserved101x s
  | .reserved11xx _ => Sys2Proof.Machine.execReserved11xx s

end Sys2Proof.Machine
end

