-- ==== Sys2Proof/Machine/Step.lean ====
section
/-! DEFINITION. One step of one agent (spec/00_scope.md R7, R8): its input is taken, the operation it selects runs. -/

namespace Sys2Proof.Machine

/-- A step: the operation the next input selects, run with that input on the pins. -/
def step (s : State) : Host.Outcome State Fault Refusal :=
  exec s.fetch s.present

/-- The state whose very next step runs the operation of a table word (log 7). -/
def State.withFetchWord (s : State) (nbits w : Nat) : State :=
  match tableSelector nbits w with
  | some sel => s.placeSelector sel
  | none => s

end Sys2Proof.Machine
end

