-- ==== Sys2Proof/Machine/Consumer.lean ====
section
/-! DEFINITION. What the consumers derive from a reading, as far as spec/41_decode.md R143 and spec/30_encoding.md
R86 state it. The consumers themselves are out of scope (R4). -/

namespace Sys2Proof.Machine

/-- The display character of a sign class, with `AC_SIGN_CHAR` as an argument (R143). -/
def signCharWith (acChar : Char) : SignClass → Char
  | .plus => '+'
  | .minus => '-'
  | .noSign => ' '
  | .ac => acChar

/-- The display character of a sign class on this hardware (R143; log 11). -/
def signChar (c : SignClass) : Char := signCharWith Config.acSignChar c

/-- The parts of a reading a query needs (R86). -/
def queryParts : Query → List ReadingPart
  | .mode => [.mode]
  | .voltageRange => [.range]
  | .resistanceRange => [.range]
  | .raw => [.raw]
  | .display => [.sign, .draw]
  | .measureVoltage => [.mcls, .range, .sign, .dval]
  | .measureResistance => [.mcls, .range, .dval]
  | .noRead => []

/-- The selects that serve a query; any one of those listed does (R86). -/
def queryReads : Query → List (BitVec 4)
  | .mode => [0x1#4, 0x0#4]
  | .voltageRange => [0x2#4, 0x0#4]
  | .resistanceRange => [0x2#4, 0x0#4]
  | .raw => [0x6#4]
  | .display => [0x0#4]
  | .measureVoltage => [0x0#4]
  | .measureResistance => [0x0#4]
  | .noRead => []

end Sys2Proof.Machine
end

