-- ==== Sys2Proof/Machine/Stimulus.lean ====
section
/-! DEFINITION. The stimulus notation of spec/30_encoding.md R85, expanded to the inputs of steps. -/

namespace Sys2Proof.Machine

/-- Transfer step `k` is the SAMPLE step of some pulse `i`: `k = 5 + 3i`, `i` = 0 to 31 (R85). -/
def isSampleStep (k : Nat) : Bool := decide (5 ≤ k) && decide (k ≤ 98) && decide (k % 3 = 2)

/-- The input of transfer step `k` of a transfer of `frame`: at the SAMPLE step of pulse `i`, SDATA is
`frame[31-i]`, elsewhere 0 (R85). -/
def xferInput (frame : Frame) (rdy : Level) (k : Nat) : Input :=
  .acq false rdy (isSampleStep k && frame.getLsbD (31 - (k - 5) / 3))

/-- A line as the inputs of its steps (R85). -/
def expandLine : StimLine → List Input
  | .rst => [.acq true false false]
  | .acq rdy sd => [.acq false rdy sd]
  | .xfer frame rdy first last => (List.range' first (last + 1 - first)).map (xferInput frame rdy)
  | .rd sel => [.read sel]

/-- A program as the inputs of its steps. -/
def expandProgram (lines : List StimLine) : List Input := lines.flatMap expandLine

end Sys2Proof.Machine
end

