-- ==== Sys2Proof/Machine/Timing.lean ====
section
/-! DEFINITION. FDEC's timing, counted in ACQ steps (spec/70_reset_and_hazards.md R220). The OPEN parameters of real
time are arguments (R5; log 13). -/

namespace Sys2Proof.Machine

/-- Steps of the load strobe: one low, one high (R220). -/
def loadSteps : Nat := 2

/-- Steps of a clock pulse: low, high, sample (R220). -/
def pulseSteps : Nat := 3

/-- Steps after ACQ_START: the strobe, 32 pulses, FINISH (R110). -/
def stepsAfterStart : Nat := loadSteps + pulseSteps * Config.framePulses + 1

/-- Steps of a transfer from START to FINISH inclusive (R220). -/
def transferSteps : Nat := 1 + stepsAfterStart

/-- Clock cycles of `steps` steps in a clocked implementation, `PHASE_CYCLES` an argument (R5). -/
def clockCycles (phaseCycles steps : Nat) : Nat := phaseCycles * steps

/-- Real time of `steps` steps, the step rate `F_BLK` an argument (R5, R220). -/
def elapsed (fBlk : ℚ) (steps : Nat) : ℚ := steps / fBlk

end Sys2Proof.Machine
end

