-- ==== Sys2Proof/Safety.lean ====
section
/-! DEFINITION. What a sound state is, in the terms the claims use: the control registers agree with the place in the
transfer, and the reading is one frame's decoding. -/

namespace Sys2Proof.Machine

/-- CNT and the two strobe latches agree with PHASE (R23, R104 to R109, R113). PHASE is no unused code (R87). -/
def Regs.controlOk (r : Regs) : Bool :=
  match r.phase with
  | .idle => decide (r.cnt.toNat = 0) && r.loadQ && r.clkQ
  | .loadLo => decide (r.cnt.toNat = 0) && r.loadQ && r.clkQ
  | .loadHi => decide (r.cnt.toNat = 0) && !r.loadQ && r.clkQ
  | .clkLo => decide (r.cnt.toNat < 32) && r.loadQ && r.clkQ
  | .clkHi => decide (r.cnt.toNat < 32) && r.loadQ && !r.clkQ
  | .sample => decide (r.cnt.toNat < 32) && r.loadQ && r.clkQ
  | .finish => decide (r.cnt.toNat = 32) && r.loadQ && r.clkQ
  | .unused => false

/-- Every field of SLOT is what its own RAW decodes to (R32). -/
def Regs.slotConsistent (r : Regs) : Bool := decide (r.slot = decodeFrame r.slot.raw)

/-- The invariant of a run. -/
abbrev Sound (s : State) : Prop := s.regs.controlOk = true ∧ s.regs.slotConsistent = true

/-- "Settled" means PHASE = IDLE (R212). -/
def State.settled (s : State) : Bool := decide (s.regs.phase = .idle)

/-- The machine with a schedule of inputs. -/
def State.withInputs (s : State) (evs : List Input) : State := { s with inputs := evs }

/-- The phase after step `k` of a transfer, ACQ_START being step 0 (R85, R110). -/
def transferPhase (k : Nat) : Phase :=
  if k = 0 then .loadLo
  else if k = 1 then .loadHi
  else if k = 98 then .finish
  else if k = 99 then .idle
  else if k % 3 = 2 then .clkLo
  else if k % 3 = 0 then .clkHi
  else .sample

/-- Transfers finished since the last RESET in the next `n` steps, `c` of them before (R198). -/
def finishesSinceReset : Nat → State → Nat → Nat
  | 0, _, c => c
  | n + 1, s, c =>
    match step s with
    | .next t =>
      match s.fetch with
      | .reset _ _ => finishesSinceReset n t 0
      | .acqFinish _ => finishesSinceReset n t (c + 1)
      | _ => finishesSinceReset n t c
    | .fault _ => c
    | .refused _ => c

/-- A hexadecimal text read back as a number, to say what a rendering must preserve (R137, R145). -/
def hexValue (s : List Char) : Nat :=
  s.foldl (fun v c => 16 * v + (if c.toNat ≤ 0x39 then c.toNat - 0x30 else c.toNat - 0x37)) 0

/-- The characters of a rendering: decimal digits and uppercase `'A'` to `'F'` (R137). -/
def isHexChar (c : Char) : Bool :=
  (decide (0x30 ≤ c.toNat) && decide (c.toNat ≤ 0x39)) || (decide (0x41 ≤ c.toNat) && decide (c.toNat ≤ 0x46))

end Sys2Proof.Machine
end

