-- ==== Sys2Proof/Certificates/Slice0/Obligations.lean ====
section
/-! DEFINITION. The statements for the provers. Each docstring names the rule of spec/ it formalises, or the sections it
rests on. "The model's choice" names what the spec does not give. -/

open Sys2Proof Sys2Proof.Machine

/-! ### Encoding and selection -/

/-- Sanity, the words written out from the tables of R78, R79 and R210: each selects its operation. -/
def Obligations.TableWordsSelectTheirOperations : Prop :=
  decodeAsel 0b0000#4 = .acqIdle ∧ decodeAsel 0b0001#4 = .acqStart ∧ decodeAsel 0b1011#4 = .acqSample true
    ∧ decodeAsel 0b1100#4 = .acqFinish false ∧ decodeSel 0x0#4 = .rdSnap ∧ decodeSel 0x8#4 = .rdSign
    ∧ decodeSel 0xF#4 = .reserved11xx 3#2 ∧ decodeSelector (.acqIn 0b110#3) = .ok (.reset true false)

/-- Decoding and encoding agree for every operation, with every operand at every value, and no other byte decodes to
it. The byte carrier is the model's choice (log 6); the selector words are R78's, R79's and R210's. -/
def Obligations.DecodeInvertsEncode : Prop :=
  (∀ (i : Instr) (rest : List (BitVec 8)), i.wellFormed = true →
    decodeSelector (encodeSelector i) = .ok i ∧ decode (encode i ++ rest) = .ok (i, rest))
  ∧ (∀ (b : BitVec 8) (i : Instr), decodeByte b = .ok i → encode i = [b])

/-- Each selector that selects an operation matches that operation's row of the opcode table and no other row, and a
selector that selects none (ACQ_IN with RST = 0) matches no row. -/
def Obligations.EverySelectorMatchesExactlyOneRow : Prop :=
  (∀ (sel : Selector) (i j : Instr), decodeSelector sel = .ok i →
    (rowMatches (opcodeRow j) sel = true ↔ opcodeRow j = opcodeRow i))
  ∧ (∀ (sel : Selector) (e : Reject) (j : Instr), decodeSelector sel = .error e → rowMatches (opcodeRow j) sel = false)

/-- A step runs the operation its input selects (R77, R78, R100, R160): RST = 1 selects by ACQ_IN, an ACQ step with
RST = 0 by `{PHASE, RISE}`, a read by SEL; some operation is always selected; it runs with the input on the pins. How
an input is scheduled is the model's choice (log 3). -/
def Obligations.StepRunsTheSelectedOperation : Prop :=
  (∀ (r : Regs) (rdy sd : Level),
    selectorOf r (.acq true rdy sd) = .acqIn (1#1 ++ BitVec.ofBool rdy ++ BitVec.ofBool sd)
    ∧ selectorOf r (.acq false rdy sd) = .asel (phaseCode r.phase ++ BitVec.ofBool (!r.rdyPrev && rdy)))
  ∧ (∀ (r : Regs) (sel : BitVec 4), selectorOf r (.read sel) = .sel sel)
  ∧ (∀ (s : State) (i : Instr), decodeSelector (selectorOf s.regs s.nextInput) = .ok i → step s = exec i s.present)
  ∧ (∀ s : State, ∃ i, decodeSelector (selectorOf s.regs s.nextInput) = .ok i)
  ∧ (∀ (s : State) (e : Input) (rest : List Input), s.inputs = e :: rest →
    s.nextInput = e ∧ s.present = { s with pins := s.pins.present e, inputs := rest })
  ∧ (∀ s : State, s.inputs = [] →
    s.nextInput = freeInput s.draws
    ∧ s.present = { s with pins := s.pins.present (freeInput s.draws), draws := s.draws + 1 })

/-! ### RESET and the ACQ operations -/

/-- R210. RESET is taken whenever RST = 1, in any phase and whatever RDY and SDATA are; it gives every element of `S`
its reset value, ACC any value; a second RESET changes nothing but ACC. The draw counter is the model's own (log 2). -/
def Obligations.ResetGivesEveryElementItsValue : Prop :=
  (∀ (r : Regs) (rdy sd : Level), select r (.acq true rdy sd) = .reset rdy sd)
  ∧ (∀ (s : State) (rdy sd : Level), ∃ acc : BitVec 32, exec (.reset rdy sd) s = .next { s with
      regs := { phase := .idle, cnt := 0#6, acc := acc, loadQ := true, clkQ := true, ledQ := false, rdyPrev := true
                slot := decodeFrame 0#32 }
      draws := s.draws + 1 })
  ∧ (∀ (s t : State) (rdy sd rdy' sd' : Level), exec (.reset rdy sd) s = .next t →
    ∃ u, exec (.reset rdy' sd') t = .next u ∧ { u.regs with acc := t.regs.acc } = t.regs)

/-- R101. In IDLE with no rising edge the step is ACQ_IDLE, whatever SDATA is; it writes RDY_PREV and nothing else. RDY
held at 1 through and after RESET starts nothing. -/
def Obligations.IdleWaits : Prop :=
  (∀ (r : Regs) (rdy sd : Level), r.phase = .idle → (r.rdyPrev = true ∨ rdy = false) →
    select r (.acq false rdy sd) = .acqIdle)
  ∧ decodeAsel 0b0000#4 = .acqIdle
  ∧ (∀ s : State, exec .acqIdle s = .next { s with regs := { s.regs with phase := .idle, rdyPrev := s.pins.rdy } })
  ∧ (∀ (s t : State) (sd sd' : Level), exec (.reset true sd) s = .next t → select t.regs (.acq false true sd') = .acqIdle)

/-- R102. A rising edge seen in IDLE selects ACQ_START, which writes CNT, PHASE and RDY_PREV and nothing else: no
latch, not ACC, not SLOT. The next ACQ step drives LOAD low. -/
def Obligations.RisingEdgeInIdleStartsATransfer : Prop :=
  (∀ (r : Regs) (sd : Level), r.phase = .idle → r.rdyPrev = false → select r (.acq false true sd) = .acqStart)
  ∧ decodeAsel 0b0001#4 = .acqStart
  ∧ (∀ s : State, exec .acqStart s =
      .next { s with regs := { s.regs with cnt := 0#6, phase := .loadLo, rdyPrev := s.pins.rdy } })
  ∧ (∀ (s t : State) (rdy sd : Level), exec .acqStart s = .next t →
      select t.regs (.acq false rdy sd) = .acqLoadLo (riseOf t.regs rdy)
      ∧ ∃ u, exec (.acqLoadLo (riseOf t.regs rdy)) t = .next u ∧ u.outLoad = false)

/-- R104, R105: the load strobe goes low, then high, whatever RISE is; nothing else is written but PHASE and RDY_PREV; and
once LOAD is 1 it stays 1 until an ACQ_LOAD_LO. -/
def Obligations.LoadOperationsDriveTheStrobe : Prop :=
  (∀ (r : Level) (s : State),
    decodeAsel (0b001#3 ++ BitVec.ofBool r) = .acqLoadLo r
    ∧ exec (.acqLoadLo r) s =
      .next { s with regs := { s.regs with loadQ := false, phase := .loadHi, rdyPrev := s.pins.rdy } })
  ∧ (∀ (r : Level) (s : State),
    decodeAsel (0b010#3 ++ BitVec.ofBool r) = .acqLoadHi r
    ∧ exec (.acqLoadHi r) s =
      .next { s with regs := { s.regs with loadQ := true, phase := .clkLo, rdyPrev := s.pins.rdy } })
  ∧ (∀ s t : State, step s = .next t → (∀ r, s.fetch ≠ .acqLoadLo r) → s.outLoad = true → t.outLoad = true)

/-- R106, R107: the shift clock goes low, then high, whatever RISE is; nothing else is written but PHASE and RDY_PREV;
and once SCLK is 1 it stays 1 until an ACQ_CLK_LO. -/
def Obligations.ClockOperationsDriveThePulse : Prop :=
  (∀ (r : Level) (s : State),
    decodeAsel (0b011#3 ++ BitVec.ofBool r) = .acqClkLo r
    ∧ exec (.acqClkLo r) s =
      .next { s with regs := { s.regs with clkQ := false, phase := .clkHi, rdyPrev := s.pins.rdy } })
  ∧ (∀ (r : Level) (s : State),
    decodeAsel (0b100#3 ++ BitVec.ofBool r) = .acqClkHi r
    ∧ exec (.acqClkHi r) s =
      .next { s with regs := { s.regs with clkQ := true, phase := .sample, rdyPrev := s.pins.rdy } })
  ∧ (∀ s t : State, step s = .next t → (∀ r, s.fetch ≠ .acqClkLo r) → s.outSclk = true → t.outSclk = true)

/-- R108, on numbers: ACC becomes `(2·ACC + d) mod 2^32`, CNT goes up by one (the rule has it at most 31 before a
sample), and the 32nd sample goes to FINISH, any other to CLK_LO; everything else but RDY_PREV is kept. After 32
samples ACC holds exactly those, most significant first, whatever it held before. In a sound state SCLK is high in the
step that samples. -/
def Obligations.SampleShiftsOneBitIn : Prop :=
  (∀ (r : Level) (s : State),
    decodeAsel (0b101#3 ++ BitVec.ofBool r) = .acqSample r
    ∧ ∃ t, exec (.acqSample r) s = .next t
      ∧ t.regs.acc = shiftIn s.regs.acc s.pins.sdata
      ∧ t.regs.acc.toNat = (2 * s.regs.acc.toNat + s.pins.sdata.toNat) % 2 ^ 32
      ∧ (s.regs.cnt.toNat ≤ 31 → t.regs.cnt.toNat = s.regs.cnt.toNat + 1)
      ∧ t.regs.phase = (if s.regs.cnt.toNat + 1 = 32 then .finish else .clkLo)
      ∧ t.regs.rdyPrev = s.pins.rdy
      ∧ t = { s with regs := { s.regs with
          acc := t.regs.acc, cnt := t.regs.cnt, phase := t.regs.phase, rdyPrev := t.regs.rdyPrev } })
  ∧ (∀ (acc : BitVec 32) (ds : List Level), ds.length = 32 →
      ∀ i < 32, ds[i]? = some ((ds.foldl shiftIn acc).getLsbD (31 - i)))
  ∧ (∀ s : State, Sound s → s.regs.phase = .sample → s.outSclk = true)

/-- R109: the frame in ACC is decoded and published whole, LED_Q is inverted, CNT is cleared and PHASE is IDLE; ACC
and the strobe latches are kept. The RAW written is `ACC & 0x03FFFFFF`. -/
def Obligations.FinishPublishesTheDecodedFrame : Prop :=
  ∀ (r : Level) (s : State),
    decodeAsel (0b110#3 ++ BitVec.ofBool r) = .acqFinish r
    ∧ exec (.acqFinish r) s = .next { s with regs := { s.regs with
        slot := decodeFrame s.regs.acc, ledQ := !s.regs.ledQ, cnt := 0#6, phase := .idle, rdyPrev := s.pins.rdy } }
    ∧ (decodeFrame s.regs.acc).raw = s.regs.acc &&& 0x03FFFFFF#32

/-! ### The read port -/

/-- R161 with the layout of R80: RD_SNAP answers `{12'b0, SIGN, MCLS, DVAL, 6'b0, RAW[25:0]}`, slice by slice, and changes
nothing but RD_DATA; on a consistent reading the fields are slices of the word. RAW's own top bits are 0 in every
consistent reading (R71). -/
def Obligations.SnapshotPacksTheWholeReading : Prop :=
  decodeSel 0x0#4 = .rdSnap
  ∧ ∀ s : State, ∃ t, exec .rdSnap s = .next t ∧ t = { s with rdData := t.rdData }
    ∧ t.rdData.extractLsb' 0 26 = s.regs.slot.raw.extractLsb' 0 26
    ∧ (s.regs.slotConsistent = true → t.rdData.extractLsb' 26 6 = 0#6)
    ∧ t.rdData.extractLsb' 32 16 = s.regs.slot.dval
    ∧ t.rdData.extractLsb' 48 2 = mclsCode (mcls s.regs.slot.mode)
    ∧ t.rdData.extractLsb' 50 2 = signCode (signOf s.regs.slot.mode s.regs.slot.pol)
    ∧ t.rdData.extractLsb' 52 12 = 0#12
    ∧ (s.regs.slotConsistent = true →
      t.rdData.extractLsb' 22 3 = s.regs.slot.mode ∧ t.rdData.extractLsb' 20 2 = s.regs.slot.pol
      ∧ t.rdData.extractLsb' 17 3 = s.regs.slot.range ∧ t.rdData.extractLsb' 0 17 = s.regs.slot.draw)

/-- R162, R163, R164, R165: MODE, RANGE, POL and DRAW are returned as they are, in every mode, zero-extended, and the
read changes nothing but RD_DATA. After RESET the mode is 0. -/
def Obligations.FieldReadsReturnTheField : Prop :=
  decodeSel 0x1#4 = .rdMode ∧ decodeSel 0x2#4 = .rdRange ∧ decodeSel 0x3#4 = .rdPol ∧ decodeSel 0x4#4 = .rdDraw
  ∧ (∀ (s t : State) (rdy sd : Level), exec (.reset rdy sd) s = .next t →
      ∃ u, exec .rdMode t = .next u ∧ u.rdData = 0#64)
  ∧ ∀ s : State,
    exec .rdMode s = .next { s with rdData := BitVec.ofNat 64 s.regs.slot.mode.toNat }
    ∧ exec .rdRange s = .next { s with rdData := BitVec.ofNat 64 s.regs.slot.range.toNat }
    ∧ exec .rdPol s = .next { s with rdData := BitVec.ofNat 64 s.regs.slot.pol.toNat }
    ∧ exec .rdDraw s = .next { s with rdData := BitVec.ofNat 64 s.regs.slot.draw.toNat }

/-- R166. RD_DVAL returns DVAL zero-extended; on a consistent reading it is at most 19999. The bound and the value for
a display with a nibble above 9 rest on the spec's decision D10 (log 10). -/
def Obligations.DisplayValueReadIsAtMost19999 : Prop :=
  decodeSel 0x5#4 = .rdDval
  ∧ ∀ s : State, exec .rdDval s = .next { s with rdData := BitVec.ofNat 64 s.regs.slot.dval.toNat }
    ∧ (s.regs.slotConsistent = true → s.regs.slot.dval.toNat ≤ 19999)

/-- R167. RD_RAW returns RAW zero-extended, with bits 63:26 zero on a consistent reading; after a publish it is the
sampled frame masked to 26 bits, bit 25 kept. -/
def Obligations.RawReadReturnsTheMaskedFrame : Prop :=
  decodeSel 0x6#4 = .rdRaw
  ∧ (∀ s : State, exec .rdRaw s = .next { s with rdData := BitVec.ofNat 64 s.regs.slot.raw.toNat }
      ∧ (s.regs.slotConsistent = true → s.regs.slot.raw.toNat < 2 ^ 26))
  ∧ (∀ (s t : State) (r : Level), exec (.acqFinish r) s = .next t →
    ∃ u, exec .rdRaw t = .next u ∧ u.rdData.toNat = s.regs.acc.toNat % 2 ^ 26)

/-- R168 with R141: RD_MCLS returns 1 for MODE 1, 2 for MODE 2, 3 for MODE 4 and 0 for the five error modes, and 0 after
RESET. -/
def Obligations.ModeClassReadFollowsTheTable : Prop :=
  decodeSel 0x7#4 = .rdMcls
  ∧ (∀ (s t : State) (rdy sd : Level), exec (.reset rdy sd) s = .next t →
      ∃ u, exec .rdMcls t = .next u ∧ u.rdData = 0#64)
  ∧ ∀ s : State, exec .rdMcls s = .next { s with rdData :=
      (if s.regs.slot.mode = 1#3 then 1#64
      else if s.regs.slot.mode = 2#3 then 2#64
      else if s.regs.slot.mode = 4#3 then 3#64
      else 0#64) }

/-- R169 with R142: RD_SIGN returns 2 for DC with POL 1, 1 for DC with any other POL, 3 for AC and 0 otherwise. -/
def Obligations.SignReadFollowsTheTable : Prop :=
  decodeSel 0x8#4 = .rdSign
  ∧ ∀ s : State, exec .rdSign s = .next { s with rdData :=
      (if s.regs.slot.mode = 4#3 then (if s.regs.slot.pol = 1#2 then 2#64 else 1#64)
      else if s.regs.slot.mode = 2#3 then 3#64
      else 0#64) }

/-- R144, tied to what the reads answer: a voltage query is in order exactly when RD_MCLS answers ACV or DCV, a
resistance query exactly when it answers RES. -/
def Obligations.DomainPredicatesAgreeWithTheClassRead : Prop :=
  ∀ s : State, ∃ t, exec .rdMcls s = .next t
    ∧ (voltOk s.regs.slot.mode = true ↔ t.rdData = 2#64 ∨ t.rdData = 3#64)
    ∧ (resOk s.regs.slot.mode = true ↔ t.rdData = 1#64)
    ∧ (voltOk s.regs.slot.mode = true ↔ s.regs.slot.mode = 2#3 ∨ s.regs.slot.mode = 4#3)
    ∧ (resOk s.regs.slot.mode = true ↔ s.regs.slot.mode = 1#3)

/-- R53, R79: every defined select answers, its answer fits its width, and every bit above is 0, on a consistent
reading. -/
def Obligations.EveryDefinedReadFitsItsWidth : Prop :=
  ∀ (s : State) (sel : BitVec 4), s.regs.slotConsistent = true → sel.toNat ≤ 8 →
    ∃ t, exec (decodeSel sel) s = .next t ∧ t = { s with rdData := t.rdData }
      ∧ t.rdData.toNat < 2 ^ selectWidth sel
      ∧ (sel = 0x0#4 → t.rdData.toNat < 2 ^ 52)

/-- R211: after RESET every defined select answers 0. -/
def Obligations.ResetReadingAnswersZero : Prop :=
  decodeFrame 0#32 = ⟨0#32, 0#3, 0#3, 0#2, 0#17, 0#16⟩
  ∧ ∀ (s t : State) (rdy sd : Level) (sel : BitVec 4), exec (.reset rdy sd) s = .next t → sel.toNat ≤ 8 →
    t.regs.slot = decodeFrame 0#32 ∧ ∃ u, exec (decodeSel sel) t = .next u ∧ u.rdData = 0#64

/-- R170 and R191, the model's side of the rule: a reserved select, and the operation of PHASE code 111, are refused,
each under its own name. The hardware's answer to a reserved select, 0, is left out on purpose (log 8). -/
def Obligations.ReservedAndUnreachableOperationsRefuse : Prop :=
  ∀ (s : State) (x : Level) (xx : BitVec 2),
    exec .reserved1001 s = .refused .reservedSelect
    ∧ exec (.reserved101x x) s = .refused .reservedSelect
    ∧ exec (.reserved11xx xx) s = .refused .reservedSelect
    ∧ exec (.phaseUnreachable x) s = .refused .phaseUnreachable

/-! ### The whole machine -/

/-- R191: no step faults; a step is refused exactly for a read with SEL `0x9` to `0xF` and for an ACQ step (RST = 0)
with PHASE = 111, each under its name; and no run from reset has PHASE = 111. -/
def Obligations.RefusalsAreExactlyTwo : Prop :=
  (∀ (s : State) (f : Fault), step s ≠ .fault f)
  ∧ (∀ (s : State) (r : Refusal), step s = .refused r ↔
      (r = .reservedSelect ∧ ∃ sel : BitVec 4, s.nextInput = .read sel ∧ 9 ≤ sel.toNat)
      ∨ (r = .phaseUnreachable ∧ s.regs.phase = .unused ∧ ∃ rdy sd, s.nextInput = .acq false rdy sd))
  ∧ (∀ (n : Nat) (evs : List Input) (t : State),
      Host.Core.run Sys2Proof.core n (State.reset.withInputs evs) = .next t → t.regs.phase ≠ .unused)

/-- The invariant holds right after reset. ACC's value there is the model's choice (log 1); the invariant says
nothing of it. -/
def Obligations.InvariantHoldsAtReset : Prop := Sound State.reset

/-- Every step keeps the invariant: PHASE is a used code, CNT and the two strobe latches agree with it (in IDLE, CNT is
0 and both latches are 1), and every field of SLOT is what its own RAW decodes to. -/
def Obligations.StepKeepsTheInvariant : Prop :=
  ∀ s t : State, Sound s → step s = .next t → Sound t

/-- From a sound state every ACQ step, every RESET and every read of a defined select completes; so does any number
of them. -/
def Obligations.SoundStatesAlwaysGoOn : Prop :=
  ∀ (evs : List Input) (s : State), Sound s → (∀ e ∈ evs, e.wellFormed = true) →
    ∃ t, Host.Core.run Sys2Proof.core evs.length (s.withInputs evs) = .next t ∧ Sound t ∧ t.inputs = []

/-- R32: if SLOT is the decoding of one frame, it is so after the next step; and then its fields are the slices of its
own RAW. The spec derives the rule from R109 and R210. -/
def Obligations.SlotIsTheDecodingOfOneFrame : Prop :=
  (∃ f, State.reset.regs.slot = decodeFrame f)
  ∧ (∀ s t : State, (∃ f, s.regs.slot = decodeFrame f) → step s = .next t → ∃ f, t.regs.slot = decodeFrame f)
  ∧ (∀ (r : Reading) (f : Frame), r = decodeFrame f →
      r.mode = r.raw.extractLsb' 22 3 ∧ r.pol = r.raw.extractLsb' 20 2 ∧ r.range = r.raw.extractLsb' 17 3
      ∧ r.draw = r.raw.extractLsb' 0 17 ∧ r.dval = dispConv r.draw ∧ r.raw.toNat < 2 ^ 26)

/-- R57, R114: only RESET and ACQ_FINISH write SLOT, each the whole of it in one step; every other step leaves it. -/
def Obligations.OnlyFinishAndResetWriteTheSlot : Prop :=
  ∀ s t : State, step s = .next t →
    (∃ rdy sd, s.fetch = .reset rdy sd ∧ t.regs.slot = decodeFrame 0#32)
    ∨ (∃ r, s.fetch = .acqFinish r ∧ t.regs.slot = decodeFrame s.regs.acc)
    ∨ ((∀ rdy sd, s.fetch ≠ .reset rdy sd) ∧ (∀ r, s.fetch ≠ .acqFinish r) ∧ t.regs.slot = s.regs.slot)

/-- R113: a latch changes only in its own operations and RESET, and whenever a sound state is in IDLE, LOAD and SCLK
are 1. -/
def Obligations.LatchesChangeOnlyInTheirOperations : Prop :=
  (∀ s t : State, step s = .next t → (∀ rdy sd, s.fetch ≠ .reset rdy sd) →
    (t.outLoad ≠ s.outLoad → ∃ r, s.fetch = .acqLoadLo r ∨ s.fetch = .acqLoadHi r)
    ∧ (t.outSclk ≠ s.outSclk → ∃ r, s.fetch = .acqClkLo r ∨ s.fetch = .acqClkHi r)
    ∧ (t.outLedRdy ≠ s.outLedRdy → ∃ r, s.fetch = .acqFinish r))
  ∧ (∀ s : State, Sound s → s.regs.phase = .idle → s.outLoad = true ∧ s.outSclk = true)

/-- R28: RISE is a 0 seen before and a 1 now; every ACQ step but RESET then stores the level it saw in RDY_PREV, RESET
stores 1, and a read leaves it. -/
def Obligations.RdyPrevHoldsTheLevelLastSeen : Prop :=
  (∀ (r : Regs) (rdy : Level), riseOf r rdy = true ↔ r.rdyPrev = false ∧ rdy = true)
  ∧ (∀ (s t : State) (rdy sd : Level), step s = .next t →
      (s.nextInput = .acq true rdy sd → t.regs.rdyPrev = true)
      ∧ (s.nextInput = .acq false rdy sd → t.regs.rdyPrev = rdy))
  ∧ (∀ (s t : State) (sel : BitVec 4), step s = .next t → s.nextInput = .read sel → t.regs.rdyPrev = s.regs.rdyPrev)

/-- R103: while BUSY, the step is the same whether RDY shows an edge or not, but for RDY_PREV; if RDY is still 1 back in
IDLE nothing starts; the next edge seen in IDLE does start a transfer. -/
def Obligations.BusyEdgeIsDropped : Prop :=
  (∀ (s : State) (rest : List Input) (rdy rdy' sd : Level), busy s.regs = true → s.regs.phase ≠ .unused →
    ∃ t u, step (s.withInputs (.acq false rdy sd :: rest)) = .next t
      ∧ step (s.withInputs (.acq false rdy' sd :: rest)) = .next u
      ∧ t.regs.rdyPrev = rdy ∧ u.regs.rdyPrev = rdy'
      ∧ { t.regs with rdyPrev := rdy' } = u.regs ∧ t.inputs = u.inputs)
  ∧ (∀ (r : Regs) (sd : Level), r.phase = .idle → r.rdyPrev = true → select r (.acq false true sd) = .acqIdle)
  ∧ (∀ (r : Regs) (sd : Level), r.phase = .idle → r.rdyPrev = false → select r (.acq false true sd) = .acqStart)

/-- R55: a read changes no element of `S` and drives no pin, and two reads of one select with the same SLOT before
them answer the same. -/
def Obligations.ReadsHaveNoSideEffect : Prop :=
  (∀ (s t : State) (sel : BitVec 4), s.nextInput = .read sel → step s = .next t →
    t.regs = s.regs ∧ t.outLoad = s.outLoad ∧ t.outSclk = s.outSclk ∧ t.outLedRdy = s.outLedRdy)
  ∧ (∀ (s s' : State) (sel : BitVec 4), sel.toNat ≤ 8 → s.regs.slot = s'.regs.slot →
    ∃ t t', exec (decodeSel sel) s = .next t ∧ exec (decodeSel sel) s' = .next t' ∧ t.rdData = t'.rdData)

/-- Reads put anywhere into a schedule disturb nothing: the run completes, and `S` ends as it does with the reads taken
out (R61, R160). R210 leaves ACC any value after a RESET; that ACC too ends equal, because both runs draw the same value
at each RESET and a scheduled read does not move the draw counter, is the model's choice (logs 2 and 3). -/
def Obligations.ReadsDoNotDisturbAcquisition : Prop :=
  ∀ (evs : List Input) (s : State), s.regs.phase ≠ .unused → (∀ e ∈ evs, e.wellFormed = true) →
    ∃ t u, Host.Core.run Sys2Proof.core evs.length (s.withInputs evs) = .next t
      ∧ Host.Core.run Sys2Proof.core (evs.filter Input.isAcq).length (s.withInputs (evs.filter Input.isAcq)) = .next u
      ∧ t.regs = u.regs

/-- R171: with reads put anywhere, from a START up to the step before the matching FINISH (at most 98 ACQ steps after
it, none a RESET) the run completes and SLOT is the reading from before, so every read in it answers from that. -/
def Obligations.ReadsDuringATransferSeeTheOldReading : Prop :=
  ∀ (s : State) (sd : Level) (evs : List Input),
    s.regs.phase = .idle → s.regs.rdyPrev = false →
    (∀ e ∈ evs, e.wellFormed = true ∧ ∀ rdy d, e ≠ .acq true rdy d) → (evs.filter Input.isAcq).length ≤ 98 →
    ∃ t, Host.Core.run Sys2Proof.core (evs.length + 1) (s.withInputs (.acq false true sd :: evs)) = .next t
      ∧ t.regs.slot = s.regs.slot ∧ t.outLedRdy = s.outLedRdy ∧ t.inputs = []

/-- R110, R112, R50: from IDLE, an edge and 99 more ACQ steps with any levels publish the 32 sampled bits, most
significant first, toggle the indicator once and come back to IDLE. Nothing of the old ACC is left. That RD_DATA keeps
its value through the transfer is the model's choice (log 5). -/
def Obligations.TransferPublishesTheSampledFrame : Prop :=
  ∀ (s : State) (sd : Level) (ins : List (Level × Level)) (rest : List Input),
    s.regs.phase = .idle → s.regs.rdyPrev = false → ins.length = 99 →
    ∃ t, Host.Core.run Sys2Proof.core 100
        (s.withInputs (.acq false true sd :: ins.map (fun p => .acq false p.1 p.2) ++ rest)) = .next t
      ∧ t.inputs = rest ∧ t.rdData = s.rdData
      ∧ t.regs.phase = .idle ∧ t.regs.cnt = 0#6 ∧ t.regs.loadQ = true ∧ t.regs.clkQ = true
      ∧ t.regs.ledQ = !s.regs.ledQ ∧ (∃ p, ins[98]? = some p ∧ t.regs.rdyPrev = p.1)
      ∧ t.regs.slot = decodeFrame t.regs.acc
      ∧ (∀ i < 32, ∃ p, ins[3 * i + 4]? = some p ∧ t.regs.acc.getLsbD (31 - i) = p.2)

/-- R110, R112, R114: the course of a transfer. After step `k` of the 99, PHASE is the one the sequence gives, LOAD is
low after step 1 only, SCLK is low after the steps `3+3i` only, and SLOT and LED_RDY are the old ones until step 99. -/
def Obligations.TransferFollowsItsWaveform : Prop :=
  ∀ (s : State) (sd : Level) (ins : List (Level × Level)) (k : Nat),
    s.regs.phase = .idle → s.regs.rdyPrev = false → s.regs.loadQ = true → s.regs.clkQ = true →
    ins.length = 99 → k ≤ 99 →
    ∃ t, Host.Core.run Sys2Proof.core (k + 1)
        (s.withInputs (.acq false true sd :: ins.map (fun p => .acq false p.1 p.2))) = .next t
      ∧ t.regs.phase = transferPhase k
      ∧ t.regs.cnt.toNat = (if k = 99 then 0 else (k - 2) / 3)
      ∧ t.outLoad = decide (k ≠ 1)
      ∧ t.outSclk = !(decide (3 ≤ k) && decide (k ≤ 96) && decide (k % 3 = 0))
      ∧ (k < 99 → t.regs.slot = s.regs.slot ∧ t.outLedRdy = s.outLedRdy)
      ∧ (k = 99 → t.outLedRdy = !s.outLedRdy)

/-- R219: in the 99 steps after a START none is a START, so two STARTs are at least 100 steps apart; and 100 is reached
when RDY is 0 in the FINISH step and 1 in the next. -/
def Obligations.StartsAreAtLeast100StepsApart : Prop :=
  ∀ (s : State) (sd : Level) (ins : List (Level × Level)) (rest : List Input),
    s.regs.phase = .idle → s.regs.rdyPrev = false → ins.length = 99 →
    (∀ (k : Nat) (t : State), k < 99 → Host.Core.run Sys2Proof.core (k + 1)
        (s.withInputs (.acq false true sd :: ins.map (fun p => .acq false p.1 p.2) ++ rest)) = .next t →
      t.fetch ≠ .acqStart)
    ∧ (∀ (d : Level) (rest' : List Input) (p : Level × Level), ins[98]? = some p → p.1 = false →
        rest = .acq false true d :: rest' →
      ∃ t, Host.Core.run Sys2Proof.core transferSteps
          (s.withInputs (.acq false true sd :: ins.map (fun p => .acq false p.1 p.2) ++ rest)) = .next t
        ∧ t.fetch = .acqStart)

/-- R85 on the machine: `ACQ rdy=1` in IDLE after a 0, then `XFER f`, publishes `DECODE(f)` and leaves `f` in ACC. -/
def Obligations.XferMacroTransfersItsFrame : Prop :=
  ∀ (s : State) (f : Frame) (rdy sd : Level), s.regs.phase = .idle → s.regs.rdyPrev = false →
    ∃ t, Host.Core.run Sys2Proof.core 100 (s.withInputs (expandProgram [.acq true sd, .xfer f rdy 1 99])) = .next t
      ∧ t.inputs = [] ∧ t.regs.acc = f ∧ t.regs.slot = decodeFrame f ∧ t.regs.phase = .idle

/-- R101 and R213: RDY held at 1 from before, as RESET leaves it, starts nothing, for any number of ACQ steps. -/
def Obligations.RdyHeldHighStartsNothing : Prop :=
  ∀ (sds : List Level) (s : State), s.regs.phase = .idle → s.regs.rdyPrev = true →
    ∃ t, Host.Core.run Sys2Proof.core sds.length (s.withInputs (sds.map (fun d => .acq false true d))) = .next t
      ∧ t.regs = s.regs

/-- R198: LED_RDY is the parity of the transfers finished since the last RESET, over any run from a state where it is
the parity of a count `c`. -/
def Obligations.LedCarriesTheTransferParity : Prop :=
  ∀ (n c : Nat) (s t : State), s.outLedRdy = decide (c % 2 = 1) → Host.Core.run Sys2Proof.core n s = .next t →
    t.outLedRdy = decide (finishesSinceReset n s c % 2 = 1)

/-- R214, the hazard: RD_MODE, then a publish, then RD_RANGE answers the old frame's mode and the new frame's range,
while RD_SNAP after it answers the new reading whole. -/
def Obligations.SplitReadsStraddleAPublish : Prop :=
  ∀ (s : State) (r : Level), ∃ a b c d,
    exec .rdMode s = .next a ∧ exec (.acqFinish r) a = .next b ∧ exec .rdRange b = .next c ∧ exec .rdSnap b = .next d
    ∧ a.rdData = BitVec.ofNat 64 s.regs.slot.mode.toNat
    ∧ c.rdData.toNat = (s.regs.acc.extractLsb' 17 3).toNat
    ∧ d.rdData.extractLsb' 22 3 = s.regs.acc.extractLsb' 22 3
    ∧ d.rdData.extractLsb' 17 3 = s.regs.acc.extractLsb' 17 3

/-! ### The decoder and the display conversion -/

/-- R131, R132, R133, R134, R135: the fields, by the source's shifts and masks on the 32-bit frame. -/
def Obligations.DecodeFollowsTheSourceMasks : Prop :=
  ∀ f : Frame,
    (decodeFrame f).raw = f &&& 0x03FFFFFF#32
    ∧ (decodeFrame f).mode.setWidth 32 = (f >>> 22) &&& 0x7#32
    ∧ (decodeFrame f).range.setWidth 32 = (f >>> 17) &&& 0x7#32
    ∧ (decodeFrame f).pol.setWidth 32 = (f >>> 20) &&& 0x3#32
    ∧ (decodeFrame f).draw.setWidth 32 = f &&& 0x1FFFF#32

/-- R71: bits 31:26 never change a decoded value, and RAW[31:26] is 0. -/
def Obligations.DiscardedBitsNeverMatter : Prop :=
  ∀ f g : Frame, decodeFrame f = decodeFrame (f &&& 0x03FFFFFF#32)
    ∧ (decodeFrame f).raw.extractLsb' 26 6 = 0#6
    ∧ ((∀ k < 26, f.getLsbD k = g.getLsbD k) → decodeFrame f = decodeFrame g)

/-- R136: one flipped frame bit changes RAW and the one field it lies in (with DRAW, DVAL may follow), bit 25 changes
RAW only, and a bit above 25 changes nothing. -/
def Obligations.FrameBitsFeedDisjointFields : Prop :=
  ∀ (f : Frame) (k : Nat), k < 32 →
    let r := decodeFrame f
    let q := decodeFrame (f ^^^ (1#32 <<< k))
    (26 ≤ k → q = r)
    ∧ (k < 26 → q.raw = r.raw ^^^ (1#32 <<< k))
    ∧ (k = 25 → { q with raw := r.raw } = r)
    ∧ (22 ≤ k → k ≤ 24 → q.mode ≠ r.mode ∧ { q with raw := r.raw, mode := r.mode } = r)
    ∧ (20 ≤ k → k ≤ 21 → q.pol ≠ r.pol ∧ { q with raw := r.raw, pol := r.pol } = r)
    ∧ (17 ≤ k → k ≤ 19 → q.range ≠ r.range ∧ { q with raw := r.raw, range := r.range } = r)
    ∧ (k ≤ 16 → q.draw ≠ r.draw ∧ { q with raw := r.raw, draw := r.draw, dval := r.dval } = r)

/-- R140: DVAL is the two-step conversion for every DRAW; with every nibble at most 9 it is the BCD value, under either
value of `DISP_PARSE` (R138); and it is not the numeric value. The first clause, for a DRAW with a nibble over 9, rests
on the spec's decision D10 (log 10). -/
def Obligations.DecimalDisplayConvertsAsBcd : Prop :=
  (∀ v : BitVec 17, (dispConv v).toNat = parseDec (hex5 v))
  ∧ (∀ (p : Config.DispParse) (v : BitVec 17), (∀ k ≤ 4, (displayNibble v k).toNat ≤ 9) →
      (dispConvWith p v).toNat = 10000 * (displayNibble v 4).toNat + 1000 * (displayNibble v 3).toNat
        + 100 * (displayNibble v 2).toNat + 10 * (displayNibble v 1).toNat + (displayNibble v 0).toNat)
  ∧ (dispConv 0x00010#17).toNat = 10

/-- R139: the closed form for every DRAW (the digits above the highest nibble over 9), at most 19999, reached only at
`0x19999`. The cases with a nibble over 9 rest on the spec's decision D10 (log 10). -/
def Obligations.DisplayConversionHasItsClosedForm : Prop :=
  ∀ v : BitVec 17,
    let n := fun k => (displayNibble v k).toNat
    n 4 ≤ 1
    ∧ (dispConv v).toNat =
      (if 10 ≤ n 3 then n 4
       else if 10 ≤ n 2 then 10 * n 4 + n 3
       else if 10 ≤ n 1 then 100 * n 4 + 10 * n 3 + n 2
       else if 10 ≤ n 0 then 1000 * n 4 + 100 * n 3 + 10 * n 2 + n 1
       else 10000 * n 4 + 1000 * n 3 + 100 * n 2 + 10 * n 1 + n 0)
    ∧ (dispConv v).toNat ≤ 19999
    ∧ ((dispConv v).toNat = 19999 ↔ v = 0x19999#17)

/-- R137, R145: HEX5 has five characters and HEX8 eight, each `'0'` to `'9'` or `'A'` to `'F'`, and read back as
hexadecimal they are the value rendered; the first character of HEX5 is `'0'` or `'1'`, that of HEX8 of a masked RAW is
`'0'` to `'3'`. -/
def Obligations.HexRenderingsReadBack : Prop :=
  (∀ v : BitVec 17, (hex5 v).length = 5 ∧ (hex5 v).all isHexChar = true ∧ hexValue (hex5 v) = v.toNat
    ∧ ((hex5 v).head? = some '0' ∨ (hex5 v).head? = some '1'))
  ∧ (∀ raw : BitVec 32, (hex8 raw).length = 8 ∧ (hex8 raw).all isHexChar = true ∧ hexValue (hex8 raw) = raw.toNat
    ∧ (raw.toNat < 2 ^ 26 → ∃ c ∈ ['0', '1', '2', '3'], (hex8 raw).head? = some c))

/-- R143 with R142, the consumer's sign character of a reading: `'-'` for DC with POL 1, `'+'` for DC otherwise,
`AC_SIGN_CHAR` for AC, a space otherwise, whatever `AC_SIGN_CHAR` is; on this hardware it is `'~'` (spec decision
D11, log 11). -/
def Obligations.SignCharacterFollowsTheTable : Prop :=
  (∀ (ch : Char) (m : BitVec 3) (p : BitVec 2), signCharWith ch (signOf m p) =
    (if m = 4#3 then (if p = 1#2 then '-' else '+') else if m = 2#3 then ch else ' '))
  ∧ (∀ c : SignClass, signChar c = signCharWith '~' c)
end

