-- ==== Sys2Proof/Laws/Operands.lean ====
section
/-! SUPPORT. One lemma per shared operation on words: what the characters, the shift and the extractors do, so that no
later proof unfolds them. -/

namespace Sys2Proof.Machine

/-- Zero-extension is the number itself (R6). -/
theorem setWidth_eq_ofNat {n : Nat} (x : BitVec n) (m : Nat) : x.setWidth m = BitVec.ofNat m x.toNat := by
  apply BitVec.eq_of_toNat_eq
  simp

/-! ### The hex characters (R137, R138) -/

theorem isDecimalChar_hexChar (n : Nibble) : isDecimalChar (hexChar n) = decide (n.toNat ≤ 9) := by
  revert n; decide

theorem hexChar_decimal_value (n : Nibble) (h : n.toNat ≤ 9) : (hexChar n).toNat - 0x30 = n.toNat := by
  revert n; decide

theorem isHexChar_hexChar (n : Nibble) : isHexChar (hexChar n) = true := by
  revert n; decide

theorem hexChar_hex_value (n : Nibble) :
    (if (hexChar n).toNat ≤ 0x39 then (hexChar n).toNat - 0x30 else (hexChar n).toNat - 0x37) = n.toNat := by
  revert n; decide

/-- The leading nibble of a display field is one bit (R76). -/
theorem displayNibble_four_le_one (v : BitVec 17) : (displayNibble v 4).toNat ≤ 1 := by
  have := v.isLt
  simp [displayNibble, Nat.shiftRight_eq_div_pow]
  omega

/-- A display field is its five nibbles (R76). -/
theorem toNat_eq_displayNibbles (v : BitVec 17) :
    v.toNat = 65536 * (displayNibble v 4).toNat + 4096 * (displayNibble v 3).toNat
      + 256 * (displayNibble v 2).toNat + 16 * (displayNibble v 1).toNat + (displayNibble v 0).toNat := by
  have := v.isLt
  simp [displayNibble, Nat.shiftRight_eq_div_pow]
  omega

/-! ### The accumulator (R108) -/

theorem shiftIn_getLsbD_zero (acc : BitVec 32) (d : Level) : (shiftIn acc d).getLsbD 0 = d := by
  cases d <;> simp [shiftIn]

theorem shiftIn_getLsbD_succ (acc : BitVec 32) (d : Level) (j : Nat) (h : j < 31) :
    (shiftIn acc d).getLsbD (j + 1) = acc.getLsbD j := by
  cases d <;> simp [shiftIn] <;> (intro _; omega)

/-! ### The extractors (R131) -/

/-- The mask keeps the low 26 bits. -/
theorem extRaw_toNat (f : Frame) : (extRaw f).toNat = f.toNat % 2 ^ 26 := by
  show (f &&& 0x03FFFFFF#32).toNat = _
  rw [BitVec.toNat_and]
  exact Nat.and_two_pow_sub_one_eq_mod _ 26

/-- A consistent reading is the decoding of its own RAW (R32). -/
theorem slot_eq_of_consistent {r : Regs} (h : r.slotConsistent = true) : r.slot = decodeFrame r.slot.raw := by
  simpa [Regs.slotConsistent] using h

/-- RAW of a consistent reading is masked (R71). -/
theorem raw_lt_of_consistent {r : Regs} (h : r.slotConsistent = true) : r.slot.raw.toNat < 2 ^ 26 := by
  have : r.slot.raw = extRaw r.slot.raw := congrArg Reading.raw (slot_eq_of_consistent h)
  rw [this, extRaw_toNat]
  omega

end Sys2Proof.Machine
end

