-- ==== Sys2Proof/Laws/PerInstr.lean ====
section
/-! SUPPORT. Statements made per instruction. Family RowMatch: the selector of an operation matches the opcode table's
row of that operation, whatever its open bits are. -/

namespace Sys2Proof.Laws.RowMatch

/-- The encoded selector matches the operation's own row of spec/opcode_table.json. -/
def Statement (i : Instr) : Prop := rowMatches (opcodeRow i) (encodeSelector i) = true

theorem reset (rdy sdata : Level) : Statement (.reset rdy sdata) := by
  cases rdy <;> cases sdata <;> rfl
theorem acqIdle : Statement .acqIdle := rfl
theorem acqStart : Statement .acqStart := rfl
theorem acqLoadLo (rise : Level) : Statement (.acqLoadLo rise) := by cases rise <;> rfl
theorem acqLoadHi (rise : Level) : Statement (.acqLoadHi rise) := by cases rise <;> rfl
theorem acqClkLo (rise : Level) : Statement (.acqClkLo rise) := by cases rise <;> rfl
theorem acqClkHi (rise : Level) : Statement (.acqClkHi rise) := by cases rise <;> rfl
theorem acqSample (rise : Level) : Statement (.acqSample rise) := by cases rise <;> rfl
theorem acqFinish (rise : Level) : Statement (.acqFinish rise) := by cases rise <;> rfl
theorem phaseUnreachable (rise : Level) : Statement (.phaseUnreachable rise) := by cases rise <;> rfl
theorem rdSnap : Statement .rdSnap := rfl
theorem rdMode : Statement .rdMode := rfl
theorem rdRange : Statement .rdRange := rfl
theorem rdPol : Statement .rdPol := rfl
theorem rdDraw : Statement .rdDraw := rfl
theorem rdDval : Statement .rdDval := rfl
theorem rdRaw : Statement .rdRaw := rfl
theorem rdMcls : Statement .rdMcls := rfl
theorem rdSign : Statement .rdSign := rfl
theorem reserved1001 : Statement .reserved1001 := rfl
theorem reserved101x (x : Level) : Statement (.reserved101x x) := by cases x <;> rfl
theorem reserved11xx (xx : BitVec 2) : Statement (.reserved11xx xx) := by
  unfold Statement
  decide +revert

end Sys2Proof.Laws.RowMatch
end

