-- ==== Sys2Proof/Laws/State.lean ====
section
/-! SUPPORT. What each named write of the state does to each field, and what it leaves. True by definition: with
these, no later proof unfolds a record update. -/

namespace Sys2Proof.Machine

/-! ### setPhase -/

@[simp] theorem Regs.setPhase_phase (r : Regs) (v : Phase) : (r.setPhase v).phase = v := rfl
@[simp] theorem Regs.setPhase_cnt (r : Regs) (v : Phase) : (r.setPhase v).cnt = r.cnt := rfl
@[simp] theorem Regs.setPhase_acc (r : Regs) (v : Phase) : (r.setPhase v).acc = r.acc := rfl
@[simp] theorem Regs.setPhase_loadQ (r : Regs) (v : Phase) : (r.setPhase v).loadQ = r.loadQ := rfl
@[simp] theorem Regs.setPhase_clkQ (r : Regs) (v : Phase) : (r.setPhase v).clkQ = r.clkQ := rfl
@[simp] theorem Regs.setPhase_ledQ (r : Regs) (v : Phase) : (r.setPhase v).ledQ = r.ledQ := rfl
@[simp] theorem Regs.setPhase_rdyPrev (r : Regs) (v : Phase) : (r.setPhase v).rdyPrev = r.rdyPrev := rfl
@[simp] theorem Regs.setPhase_slot (r : Regs) (v : Phase) : (r.setPhase v).slot = r.slot := rfl

/-! ### setCnt -/

@[simp] theorem Regs.setCnt_phase (r : Regs) (v : BitVec 6) : (r.setCnt v).phase = r.phase := rfl
@[simp] theorem Regs.setCnt_cnt (r : Regs) (v : BitVec 6) : (r.setCnt v).cnt = v := rfl
@[simp] theorem Regs.setCnt_acc (r : Regs) (v : BitVec 6) : (r.setCnt v).acc = r.acc := rfl
@[simp] theorem Regs.setCnt_loadQ (r : Regs) (v : BitVec 6) : (r.setCnt v).loadQ = r.loadQ := rfl
@[simp] theorem Regs.setCnt_clkQ (r : Regs) (v : BitVec 6) : (r.setCnt v).clkQ = r.clkQ := rfl
@[simp] theorem Regs.setCnt_ledQ (r : Regs) (v : BitVec 6) : (r.setCnt v).ledQ = r.ledQ := rfl
@[simp] theorem Regs.setCnt_rdyPrev (r : Regs) (v : BitVec 6) : (r.setCnt v).rdyPrev = r.rdyPrev := rfl
@[simp] theorem Regs.setCnt_slot (r : Regs) (v : BitVec 6) : (r.setCnt v).slot = r.slot := rfl

/-! ### setAcc -/

@[simp] theorem Regs.setAcc_phase (r : Regs) (v : BitVec 32) : (r.setAcc v).phase = r.phase := rfl
@[simp] theorem Regs.setAcc_cnt (r : Regs) (v : BitVec 32) : (r.setAcc v).cnt = r.cnt := rfl
@[simp] theorem Regs.setAcc_acc (r : Regs) (v : BitVec 32) : (r.setAcc v).acc = v := rfl
@[simp] theorem Regs.setAcc_loadQ (r : Regs) (v : BitVec 32) : (r.setAcc v).loadQ = r.loadQ := rfl
@[simp] theorem Regs.setAcc_clkQ (r : Regs) (v : BitVec 32) : (r.setAcc v).clkQ = r.clkQ := rfl
@[simp] theorem Regs.setAcc_ledQ (r : Regs) (v : BitVec 32) : (r.setAcc v).ledQ = r.ledQ := rfl
@[simp] theorem Regs.setAcc_rdyPrev (r : Regs) (v : BitVec 32) : (r.setAcc v).rdyPrev = r.rdyPrev := rfl
@[simp] theorem Regs.setAcc_slot (r : Regs) (v : BitVec 32) : (r.setAcc v).slot = r.slot := rfl

/-! ### setLoadQ -/

@[simp] theorem Regs.setLoadQ_phase (r : Regs) (v : Level) : (r.setLoadQ v).phase = r.phase := rfl
@[simp] theorem Regs.setLoadQ_cnt (r : Regs) (v : Level) : (r.setLoadQ v).cnt = r.cnt := rfl
@[simp] theorem Regs.setLoadQ_acc (r : Regs) (v : Level) : (r.setLoadQ v).acc = r.acc := rfl
@[simp] theorem Regs.setLoadQ_loadQ (r : Regs) (v : Level) : (r.setLoadQ v).loadQ = v := rfl
@[simp] theorem Regs.setLoadQ_clkQ (r : Regs) (v : Level) : (r.setLoadQ v).clkQ = r.clkQ := rfl
@[simp] theorem Regs.setLoadQ_ledQ (r : Regs) (v : Level) : (r.setLoadQ v).ledQ = r.ledQ := rfl
@[simp] theorem Regs.setLoadQ_rdyPrev (r : Regs) (v : Level) : (r.setLoadQ v).rdyPrev = r.rdyPrev := rfl
@[simp] theorem Regs.setLoadQ_slot (r : Regs) (v : Level) : (r.setLoadQ v).slot = r.slot := rfl

/-! ### setClkQ -/

@[simp] theorem Regs.setClkQ_phase (r : Regs) (v : Level) : (r.setClkQ v).phase = r.phase := rfl
@[simp] theorem Regs.setClkQ_cnt (r : Regs) (v : Level) : (r.setClkQ v).cnt = r.cnt := rfl
@[simp] theorem Regs.setClkQ_acc (r : Regs) (v : Level) : (r.setClkQ v).acc = r.acc := rfl
@[simp] theorem Regs.setClkQ_loadQ (r : Regs) (v : Level) : (r.setClkQ v).loadQ = r.loadQ := rfl
@[simp] theorem Regs.setClkQ_clkQ (r : Regs) (v : Level) : (r.setClkQ v).clkQ = v := rfl
@[simp] theorem Regs.setClkQ_ledQ (r : Regs) (v : Level) : (r.setClkQ v).ledQ = r.ledQ := rfl
@[simp] theorem Regs.setClkQ_rdyPrev (r : Regs) (v : Level) : (r.setClkQ v).rdyPrev = r.rdyPrev := rfl
@[simp] theorem Regs.setClkQ_slot (r : Regs) (v : Level) : (r.setClkQ v).slot = r.slot := rfl

/-! ### setLedQ -/

@[simp] theorem Regs.setLedQ_phase (r : Regs) (v : Level) : (r.setLedQ v).phase = r.phase := rfl
@[simp] theorem Regs.setLedQ_cnt (r : Regs) (v : Level) : (r.setLedQ v).cnt = r.cnt := rfl
@[simp] theorem Regs.setLedQ_acc (r : Regs) (v : Level) : (r.setLedQ v).acc = r.acc := rfl
@[simp] theorem Regs.setLedQ_loadQ (r : Regs) (v : Level) : (r.setLedQ v).loadQ = r.loadQ := rfl
@[simp] theorem Regs.setLedQ_clkQ (r : Regs) (v : Level) : (r.setLedQ v).clkQ = r.clkQ := rfl
@[simp] theorem Regs.setLedQ_ledQ (r : Regs) (v : Level) : (r.setLedQ v).ledQ = v := rfl
@[simp] theorem Regs.setLedQ_rdyPrev (r : Regs) (v : Level) : (r.setLedQ v).rdyPrev = r.rdyPrev := rfl
@[simp] theorem Regs.setLedQ_slot (r : Regs) (v : Level) : (r.setLedQ v).slot = r.slot := rfl

/-! ### setRdyPrev -/

@[simp] theorem Regs.setRdyPrev_phase (r : Regs) (v : Level) : (r.setRdyPrev v).phase = r.phase := rfl
@[simp] theorem Regs.setRdyPrev_cnt (r : Regs) (v : Level) : (r.setRdyPrev v).cnt = r.cnt := rfl
@[simp] theorem Regs.setRdyPrev_acc (r : Regs) (v : Level) : (r.setRdyPrev v).acc = r.acc := rfl
@[simp] theorem Regs.setRdyPrev_loadQ (r : Regs) (v : Level) : (r.setRdyPrev v).loadQ = r.loadQ := rfl
@[simp] theorem Regs.setRdyPrev_clkQ (r : Regs) (v : Level) : (r.setRdyPrev v).clkQ = r.clkQ := rfl
@[simp] theorem Regs.setRdyPrev_ledQ (r : Regs) (v : Level) : (r.setRdyPrev v).ledQ = r.ledQ := rfl
@[simp] theorem Regs.setRdyPrev_rdyPrev (r : Regs) (v : Level) : (r.setRdyPrev v).rdyPrev = v := rfl
@[simp] theorem Regs.setRdyPrev_slot (r : Regs) (v : Level) : (r.setRdyPrev v).slot = r.slot := rfl

/-! ### slotWrite -/

@[simp] theorem Regs.slotWrite_phase (r : Regs) (v : Reading) : (r.slotWrite v).phase = r.phase := rfl
@[simp] theorem Regs.slotWrite_cnt (r : Regs) (v : Reading) : (r.slotWrite v).cnt = r.cnt := rfl
@[simp] theorem Regs.slotWrite_acc (r : Regs) (v : Reading) : (r.slotWrite v).acc = r.acc := rfl
@[simp] theorem Regs.slotWrite_loadQ (r : Regs) (v : Reading) : (r.slotWrite v).loadQ = r.loadQ := rfl
@[simp] theorem Regs.slotWrite_clkQ (r : Regs) (v : Reading) : (r.slotWrite v).clkQ = r.clkQ := rfl
@[simp] theorem Regs.slotWrite_ledQ (r : Regs) (v : Reading) : (r.slotWrite v).ledQ = r.ledQ := rfl
@[simp] theorem Regs.slotWrite_rdyPrev (r : Regs) (v : Reading) : (r.slotWrite v).rdyPrev = r.rdyPrev := rfl
@[simp] theorem Regs.slotWrite_slot (r : Regs) (v : Reading) : (r.slotWrite v).slot = v := rfl

/-! ### Writes of the whole state -/

@[simp] theorem State.setRegs_regs (s : State) (v : Regs) : (s.setRegs v).regs = v := rfl
@[simp] theorem State.setRegs_pins (s : State) (v : Regs) : (s.setRegs v).pins = s.pins := rfl
@[simp] theorem State.setRegs_rdData (s : State) (v : Regs) : (s.setRegs v).rdData = s.rdData := rfl
@[simp] theorem State.setRegs_inputs (s : State) (v : Regs) : (s.setRegs v).inputs = s.inputs := rfl
@[simp] theorem State.setRegs_draws (s : State) (v : Regs) : (s.setRegs v).draws = s.draws := rfl

@[simp] theorem State.setRdData_regs (s : State) (v : RdWord) : (s.setRdData v).regs = s.regs := rfl
@[simp] theorem State.setRdData_pins (s : State) (v : RdWord) : (s.setRdData v).pins = s.pins := rfl
@[simp] theorem State.setRdData_rdData (s : State) (v : RdWord) : (s.setRdData v).rdData = v := rfl
@[simp] theorem State.setRdData_inputs (s : State) (v : RdWord) : (s.setRdData v).inputs = s.inputs := rfl
@[simp] theorem State.setRdData_draws (s : State) (v : RdWord) : (s.setRdData v).draws = s.draws := rfl

@[simp] theorem State.acqWrite_regs (s : State) (f : Regs → Regs) : (s.acqWrite f).regs = (f s.regs).setRdyPrev s.pins.rdy := rfl
@[simp] theorem State.acqWrite_pins (s : State) (f : Regs → Regs) : (s.acqWrite f).pins = s.pins := rfl
@[simp] theorem State.acqWrite_rdData (s : State) (f : Regs → Regs) : (s.acqWrite f).rdData = s.rdData := rfl
@[simp] theorem State.acqWrite_inputs (s : State) (f : Regs → Regs) : (s.acqWrite f).inputs = s.inputs := rfl
@[simp] theorem State.acqWrite_draws (s : State) (f : Regs → Regs) : (s.acqWrite f).draws = s.draws := rfl

@[simp] theorem State.readAnswer_regs (s : State) (f : Reading → RdWord) : (s.readAnswer f).regs = s.regs := rfl
@[simp] theorem State.readAnswer_pins (s : State) (f : Reading → RdWord) : (s.readAnswer f).pins = s.pins := rfl
@[simp] theorem State.readAnswer_rdData (s : State) (f : Reading → RdWord) : (s.readAnswer f).rdData = f s.regs.slot := rfl
@[simp] theorem State.readAnswer_inputs (s : State) (f : Reading → RdWord) : (s.readAnswer f).inputs = s.inputs := rfl
@[simp] theorem State.readAnswer_draws (s : State) (f : Reading → RdWord) : (s.readAnswer f).draws = s.draws := rfl

/-! ### Taking an input -/

@[simp] theorem State.present_regs (s : State) : s.present.regs = s.regs := rfl
@[simp] theorem State.present_rdData (s : State) : s.present.rdData = s.rdData := rfl
@[simp] theorem State.present_inputs (s : State) : s.present.inputs = s.inputs.tail := rfl
@[simp] theorem State.present_pins (s : State) : s.present.pins = s.pins.present s.nextInput := rfl

@[simp] theorem Pins.present_acq (p : Pins) (rst rdy sdata : Level) :
    p.present (.acq rst rdy sdata) = { p with rst := rst, rdy := rdy, sdata := sdata } := rfl
@[simp] theorem Pins.present_read (p : Pins) (sel : BitVec 4) :
    p.present (.read sel) = { p with sel := sel } := rfl

/-- A scheduled input is the next input. -/
theorem State.nextInput_of_cons (s : State) (i : Input) (rest : List Input) (h : s.inputs = i :: rest) :
    s.nextInput = i := by simp [State.nextInput, h]

/-- A scheduled input draws no free value. -/
theorem State.present_draws_of_cons (s : State) (i : Input) (rest : List Input) (h : s.inputs = i :: rest) :
    s.present.draws = s.draws := by simp [State.present, h]

end Sys2Proof.Machine
end

