-- ==== Sys2Proof/Laws/Step.lean ====
section
/-! SUPPORT. What a step can do, said once: every operation's next state as one equation, and the cases of a step. -/

namespace Sys2Proof.Machine

/-! ### The operation a step selects -/

theorem phaseOfCode_phaseCode (p : Phase) : phaseOfCode (phaseCode p) = p := by cases p <;> rfl

/-- Decoding the ASEL word of a phase and RISE gives the operation of that phase (R78). -/
theorem decodeAsel_aselWord (p : Phase) (rise : Level) : decodeAsel (aselWord p rise) = acqOperation p rise := by
  cases p <;> cases rise <;> rfl

theorem select_reset (r : Regs) (rdy sdata : Level) : select r (.acq true rdy sdata) = .reset rdy sdata := rfl

theorem select_acq (r : Regs) (rdy sdata : Level) :
    select r (.acq false rdy sdata) = acqOperation r.phase (riseOf r rdy) := by
  simp [select, decodeAsel_aselWord]

theorem select_read (r : Regs) (sel : BitVec 4) : select r (.read sel) = decodeSel sel := rfl

/-! ### The registers after an operation -/

/-- `S` after an ACQ step that is not a RESET, as one function of `S` and the pins (R100 to R109). `none` where the
step is refused (R191). -/
def acqRegs (r : Regs) (rdy sdata : Level) : Option Regs :=
  match r.phase with
  | .idle =>
    some (if riseOf r rdy then { r with cnt := 0#6, phase := .loadLo, rdyPrev := rdy } else { r with rdyPrev := rdy })
  | .loadLo => some { r with loadQ := false, phase := .loadHi, rdyPrev := rdy }
  | .loadHi => some { r with loadQ := true, phase := .clkLo, rdyPrev := rdy }
  | .clkLo => some { r with clkQ := false, phase := .clkHi, rdyPrev := rdy }
  | .clkHi => some { r with clkQ := true, phase := .sample, rdyPrev := rdy }
  | .sample =>
    some { r with
      acc := shiftIn r.acc sdata, cnt := r.cnt + 1#6
      phase := if r.cnt + 1#6 = 32#6 then .finish else .clkLo
      rdyPrev := rdy }
  | .finish =>
    some { r with slot := decodeFrame r.acc, ledQ := !r.ledQ, cnt := 0#6, phase := .idle, rdyPrev := rdy }
  | .unused => none

/-- An ACQ step that is not a RESET goes to `acqRegs`, or is refused for PHASE = 111. -/
theorem exec_acqOperation (s : State) :
    exec (acqOperation s.regs.phase (riseOf s.regs s.pins.rdy)) s =
      match acqRegs s.regs s.pins.rdy s.pins.sdata with
      | some r => .next (s.setRegs r)
      | none => .refused .phaseUnreachable := by
  obtain ⟨r, p, d, l, n⟩ := s
  obtain ⟨ph, c, a, lq, cq, led, rp, sl⟩ := r
  cases ph <;> simp only [acqOperation, acqRegs]
  case idle => cases h : riseOf ⟨.idle, c, a, lq, cq, led, rp, sl⟩ p.rdy <;> rfl
  all_goals rfl

/-- The answer of a defined select on a reading (R160); `none` for a reserved one. -/
def rdAnswer (sel : BitVec 4) (r : Reading) : Option RdWord :=
  match sel.toNat with
  | 0 => some (snapWord r)
  | 1 => some (r.mode.setWidth 64)
  | 2 => some (r.range.setWidth 64)
  | 3 => some (r.pol.setWidth 64)
  | 4 => some (r.draw.setWidth 64)
  | 5 => some (r.dval.setWidth 64)
  | 6 => some (r.raw.setWidth 64)
  | 7 => some ((mclsCode (mcls r.mode)).setWidth 64)
  | 8 => some ((signCode (signOf r.mode r.pol)).setWidth 64)
  | _ => none

/-- Every select value is one of the sixteen. -/
theorem sel_cases (P : BitVec 4 → Prop)
    (h : P 0#4 ∧ P 1#4 ∧ P 2#4 ∧ P 3#4 ∧ P 4#4 ∧ P 5#4 ∧ P 6#4 ∧ P 7#4 ∧ P 8#4 ∧ P 9#4 ∧ P 10#4 ∧ P 11#4 ∧ P 12#4
      ∧ P 13#4 ∧ P 14#4 ∧ P 15#4) (sel : BitVec 4) : P sel := by
  obtain ⟨n, hn⟩ := sel
  obtain ⟨h0, h1, h2, h3, h4, h5, h6, h7, h8, h9, h10, h11, h12, h13, h14, h15⟩ := h
  have : n < 16 := hn
  interval_cases n <;> assumption

/-- A read step answers `rdAnswer` and changes nothing else, or is refused for a reserved select. -/
theorem exec_decodeSel (sel : BitVec 4) (s : State) :
    exec (decodeSel sel) s =
      match rdAnswer sel s.regs.slot with
      | some v => .next (s.setRdData v)
      | none => .refused .reservedSelect := by
  revert sel
  apply sel_cases
  refine ⟨?_, ?_, ?_, ?_, ?_, ?_, ?_, ?_, ?_, ?_, ?_, ?_, ?_, ?_, ?_, ?_⟩ <;> rfl

theorem rdAnswer_isSome (sel : BitVec 4) (r : Reading) : (rdAnswer sel r).isSome = decide (sel.toNat ≤ 8) := by
  revert sel
  apply sel_cases
  refine ⟨?_, ?_, ?_, ?_, ?_, ?_, ?_, ?_, ?_, ?_, ?_, ?_, ?_, ?_, ?_, ?_⟩ <;> rfl

theorem exec_reset (s : State) (rdy sdata : Level) :
    exec (.reset rdy sdata) s =
      .next { s with regs := Regs.afterReset (Config.freeAcc s.draws), draws := s.draws + 1 } := rfl

/-! ### The step -/

theorem step_reset (s : State) (rdy sdata : Level) (h : s.nextInput = .acq true rdy sdata) :
    step s = .next { s.present with
      regs := Regs.afterReset (Config.freeAcc s.present.draws), draws := s.present.draws + 1 } := by
  simp only [step, State.fetch, h, select_reset, exec_reset]

theorem step_acq (s : State) (rdy sdata : Level) (h : s.nextInput = .acq false rdy sdata) :
    step s =
      match acqRegs s.regs rdy sdata with
      | some r => .next (s.present.setRegs r)
      | none => .refused .phaseUnreachable := by
  have := exec_acqOperation s.present
  simp only [State.present_regs, State.present_pins, h, Pins.present_acq] at this
  simp only [step, State.fetch, h, select_acq, this]

theorem step_read (s : State) (sel : BitVec 4) (h : s.nextInput = .read sel) :
    step s =
      match rdAnswer sel s.regs.slot with
      | some v => .next (s.present.setRdData v)
      | none => .refused .reservedSelect := by
  simp only [step, State.fetch, h, select_read, exec_decodeSel, State.present_regs]

/-- Everything a step that answers a next state can be: a RESET, an ACQ step, or a read of a defined select. -/
theorem step_next_cases {s t : State} (h : step s = .next t) :
    (∃ rdy sdata acc, s.nextInput = .acq true rdy sdata ∧ t.regs = Regs.afterReset acc ∧ t.rdData = s.rdData
      ∧ t.inputs = s.inputs.tail) ∨
    (∃ rdy sdata r, s.nextInput = .acq false rdy sdata ∧ acqRegs s.regs rdy sdata = some r
      ∧ t = s.present.setRegs r) ∨
    (∃ sel v, s.nextInput = .read sel ∧ rdAnswer sel s.regs.slot = some v ∧ t = s.present.setRdData v) := by
  cases hi : s.nextInput with
  | read sel =>
    rw [step_read s sel hi] at h
    cases hr : rdAnswer sel s.regs.slot with
    | none => simp [hr] at h
    | some v => simp only [hr, Host.Outcome.next.injEq] at h; exact .inr (.inr ⟨sel, v, rfl, hr, h.symm⟩)
  | acq rst rdy sdata =>
    cases rst with
    | true =>
      rw [step_reset s rdy sdata hi] at h
      cases h
      exact .inl ⟨rdy, sdata, _, rfl, rfl, rfl, rfl⟩
    | false =>
      rw [step_acq s rdy sdata hi] at h
      cases hr : acqRegs s.regs rdy sdata with
      | none => simp [hr] at h
      | some r =>
        simp only [hr, Host.Outcome.next.injEq] at h
        exact .inr (.inl ⟨rdy, sdata, r, rfl, hr, h.symm⟩)

/-- An ACQ step has a next state in every phase but the unused code. -/
theorem acqRegs_isSome (r : Regs) (rdy sdata : Level) :
    (acqRegs r rdy sdata).isSome = decide (r.phase ≠ .unused) := by
  obtain ⟨ph, c, a, lq, cq, led, rp, sl⟩ := r
  cases ph <;> rfl

end Sys2Proof.Machine
end

