-- ==== Sys2Proof/Laws/Run.lean ====
section
/-! SUPPORT. Runs of several steps, one step at a time, and what every step does to the schedule. -/

namespace Sys2Proof.Machine

/-- A run of `n + 1` steps is a step and a run of `n`. -/
theorem run_succ (n : Nat) (s : State) :
    Host.Core.run Sys2Proof.core (n + 1) s =
      match step s with
      | .next t => Host.Core.run Sys2Proof.core n t
      | .fault f => .fault f
      | .refused r => .refused r := by
  have h : Sys2Proof.core.step s = step s := rfl
  simp only [Host.Core.run, h]
  cases step s <;> rfl

/-- A run whose first step is known. -/
theorem run_of_step {s t : State} (n : Nat) (h : step s = .next t) :
    Host.Core.run Sys2Proof.core (n + 1) s = Host.Core.run Sys2Proof.core n t := by
  rw [run_succ, h]

/-- Every step takes one input from the schedule. -/
theorem step_inputs {s t : State} (h : step s = .next t) : t.inputs = s.inputs.tail := by
  rcases step_next_cases h with ⟨_, _, _, _, _, _, e⟩ | ⟨_, _, _, _, _, rfl⟩ | ⟨_, _, _, _, rfl⟩
  · exact e
  · rfl
  · rfl

/-- An ACQ step never enters the unused code (R87). -/
theorem acqRegs_phase_ne_unused {r r' : Regs} {rdy sdata : Level} (h : acqRegs r rdy sdata = some r') :
    r'.phase ≠ .unused := by
  unfold acqRegs at h
  split at h <;> cases h <;> (try split) <;> simp_all

/-- A step on a well-formed scheduled input completes in every used phase (R191). -/
theorem step_completes {s : State} {e : Input} {rest : List Input} (hp : s.regs.phase ≠ .unused)
    (hw : e.wellFormed = true) (hi : s.inputs = e :: rest) : ∃ t, step s = .next t := by
  have hn := State.nextInput_of_cons s e rest hi
  cases e with
  | read sel =>
    rw [step_read s sel hn]
    have hs := rdAnswer_isSome sel s.regs.slot
    simp only [Input.wellFormed, decide_eq_true_eq] at hw
    cases hv : rdAnswer sel s.regs.slot with
    | none => simp [hv] at hs; omega
    | some v => exact ⟨_, rfl⟩
  | acq rst rdy sd =>
    cases rst with
    | true => exact ⟨_, step_reset s rdy sd hn⟩
    | false =>
      rw [step_acq s rdy sd hn]
      have hs := acqRegs_isSome s.regs rdy sd
      cases hv : acqRegs s.regs rdy sd with
      | none => simp [hv] at hs; exact absurd hs hp
      | some v => exact ⟨_, rfl⟩

end Sys2Proof.Machine
end

