-- ==== Sys2Proof/Tests/Slice0.lean ====
section
/-! SUPPORT. The model's own tests. Expected results come from spec/95_test_vectors.md, the examples of the rules, or the
encoding tables; each test names its source. Then a witness for the hypotheses of each statement that has some. -/

namespace Sys2Proof.Tests

open Sys2Proof.Machine

/-! ### Helpers -/

/-- The step answers a next state with property `p`. -/
def nextIs (o : Host.Outcome State Fault Refusal) (p : State → Bool) : Bool :=
  match o with
  | .next t => p t
  | .fault _ => false
  | .refused _ => false

/-- The step is refused for `r`. -/
def refusedFor (o : Host.Outcome State Fault Refusal) (r : Refusal) : Bool :=
  match o with
  | .next _ => false
  | .fault _ => false
  | .refused r' => decide (r' = r)

/-- The reset machine in another phase, with other control registers. -/
def at_ (p : Phase) (cnt : BitVec 6) (acc : BitVec 32) (rdyPrev : Level) : State :=
  State.reset.setRegs { Regs.reset with phase := p, cnt := cnt, acc := acc, rdyPrev := rdyPrev }

/-- The reset machine with a published frame. -/
def holding (f : Frame) : State := State.reset.setRegs (Regs.reset.slotWrite (decodeFrame f))

/-- One ACQ step with RST = 0. -/
def acqStep (s : State) (rdy sd : Level) : Host.Outcome State Fault Refusal := step (s.withInputs [.acq false rdy sd])

/-- What a read step answers on RD_DATA. -/
def answers (s : State) (sel : BitVec 4) (v : RdWord) : Bool :=
  nextIs (step (s.withInputs [.read sel])) fun t => decide (t.rdData = v) && decide (t.regs = s.regs)

/-! ### Well-formedness: an ill-formed term for each check -/

theorem test_wf_reserved_select_refused : (Input.read 0x9#4).wellFormed = false := by decide
theorem test_wf_defined_select : (Input.read 0x8#4).wellFormed = true := by decide
theorem test_wf_xfer_from_zero_refused : (StimLine.xfer 0#32 true 0 99).wellFormed = false := by decide
theorem test_wf_xfer_backwards_refused : (StimLine.xfer 0#32 true 51 50).wellFormed = false := by decide
theorem test_wf_xfer_past_99_refused : (StimLine.xfer 0#32 true 1 100).wellFormed = false := by decide
theorem test_wf_rd_reserved_refused : (StimLine.rd 0xF#4).wellFormed = false := by decide
theorem test_wf_instr : (Instr.reserved11xx 3#2).wellFormed = true := by decide

/-! ### Decoding: words written out from opcode_table.json and R78, R79 -/

theorem test_decode_reset : decodeSelector (.acqIn 0b101#3) = .ok (.reset false true) := by decide
theorem test_decode_rst_low_refused : decodeSelector (.acqIn 0b011#3) = .error .rstLow := by decide
theorem test_decode_idle : decodeAsel 0b0000#4 = .acqIdle := by decide
theorem test_decode_start : decodeAsel 0b0001#4 = .acqStart := by decide
theorem test_decode_load_lo : decodeAsel 0b0010#4 = .acqLoadLo false ∧ decodeAsel 0b0011#4 = .acqLoadLo true := by decide
theorem test_decode_load_hi : decodeAsel 0b0100#4 = .acqLoadHi false ∧ decodeAsel 0b0101#4 = .acqLoadHi true := by decide
theorem test_decode_clk_lo : decodeAsel 0b0110#4 = .acqClkLo false ∧ decodeAsel 0b0111#4 = .acqClkLo true := by decide
theorem test_decode_clk_hi : decodeAsel 0b1000#4 = .acqClkHi false ∧ decodeAsel 0b1001#4 = .acqClkHi true := by decide
theorem test_decode_sample : decodeAsel 0b1010#4 = .acqSample false ∧ decodeAsel 0b1011#4 = .acqSample true := by decide
theorem test_decode_finish : decodeAsel 0b1100#4 = .acqFinish false ∧ decodeAsel 0b1101#4 = .acqFinish true := by decide
theorem test_decode_unreachable :
    decodeAsel 0b1110#4 = .phaseUnreachable false ∧ decodeAsel 0b1111#4 = .phaseUnreachable true := by decide
theorem test_decode_rd_snap : decodeSel 0b0000#4 = .rdSnap := by decide
theorem test_decode_rd_mode : decodeSel 0b0001#4 = .rdMode := by decide
theorem test_decode_rd_range : decodeSel 0b0010#4 = .rdRange := by decide
theorem test_decode_rd_pol : decodeSel 0b0011#4 = .rdPol := by decide
theorem test_decode_rd_draw : decodeSel 0b0100#4 = .rdDraw := by decide
theorem test_decode_rd_dval : decodeSel 0b0101#4 = .rdDval := by decide
theorem test_decode_rd_raw : decodeSel 0b0110#4 = .rdRaw := by decide
theorem test_decode_rd_mcls : decodeSel 0b0111#4 = .rdMcls := by decide
theorem test_decode_rd_sign : decodeSel 0b1000#4 = .rdSign := by decide
theorem test_decode_reserved_9 : decodeSel 0b1001#4 = .reserved1001 := by decide
theorem test_decode_reserved_a_b : decodeSel 0b1010#4 = .reserved101x false ∧ decodeSel 0b1011#4 = .reserved101x true := by decide
theorem test_decode_reserved_c_f : decodeSel 0b1100#4 = .reserved11xx 0#2 ∧ decodeSel 0b1111#4 = .reserved11xx 3#2 := by decide

theorem test_bytes_carry_the_format :
    decodeByte 0x02#8 = .ok .rdRange ∧ decodeByte 0x12#8 = .ok (.acqLoadLo false) ∧ decodeByte 0x26#8 = .ok (.reset true false) := by
  decide
theorem test_bytes_rejected :
    decodeByte 0x30#8 = .error .unknownFormat ∧ decodeByte 0x2C#8 = .error .acqInTooWide ∧ decodeByte 0x20#8 = .error .rstLow
      ∧ decode [] = .error .noByte := by decide
theorem test_table_words : decodeTableWord 8 0x5 = some .rdDval ∧ decodeTableWord 3 0x4 = some (.reset false false)
    ∧ decodeTableWord 8 0x1A = some (.acqSample false) ∧ decodeTableWord 8 0x100 = none := by decide
theorem test_phase_codes : phaseCode .idle = 0b000#3 ∧ phaseCode .sample = 0b101#3 ∧ phaseCode .finish = 0b110#3
    ∧ phaseOfCode 0b100#3 = .clkHi ∧ phaseOfCode 0b111#3 = .unused := by decide

/-- The placed word is what the next step fetches, right after reset. -/
theorem test_withFetchWord : (State.reset.withFetchWord 8 0x11).fetch = .acqStart
    ∧ (State.reset.withFetchWord 8 0x1D).fetch = .acqFinish true ∧ (State.reset.withFetchWord 8 0x10).fetch = .acqIdle
    ∧ (State.reset.withFetchWord 3 0x7).fetch = .reset true true ∧ (State.reset.withFetchWord 8 0x7).fetch = .rdMcls := by decide

/-! ### ACQ steps: spec/95_test_vectors.md section 2.1 -/

/-- A1 -/
theorem test_A1_idle : nextIs (acqStep (at_ .idle 0 0 true) false false) fun t =>
    decide (t.regs.phase = .idle) && !t.regs.rdyPrev := by decide
/-- A2 -/
theorem test_A2_idle_no_edge : nextIs (acqStep (at_ .idle 0 0 true) true false) fun t =>
    decide (t.regs = (at_ .idle 0 0 true).regs) := by decide
/-- A4 -/
theorem test_A4_start : nextIs (acqStep (at_ .idle 0 0xABCD#32 false) true true) fun t =>
    decide (t.regs = { (at_ .loadLo 0 0xABCD#32 true).regs with slot := Reading.zero }) := by decide
/-- A5, A6: the edge is dropped -/
theorem test_A6_load_lo : nextIs (acqStep (at_ .loadLo 0 0 false) true false) fun t =>
    decide (t.regs.phase = .loadHi) && !t.outLoad && t.regs.rdyPrev := by decide
/-- A7 -/
theorem test_A7_load_hi : nextIs (acqStep ((at_ .loadHi 0 0 true).setRegs ((at_ .loadHi 0 0 true).regs.setLoadQ false)) true false)
    fun t => decide (t.regs.phase = .clkLo) && t.outLoad := by decide
/-- A8 -/
theorem test_A8_clk_lo : nextIs (acqStep (at_ .clkLo 0 0 true) true false) fun t =>
    decide (t.regs.phase = .clkHi) && !t.outSclk && t.outLoad := by decide
/-- A9 -/
theorem test_A9_clk_hi : nextIs (acqStep ((at_ .clkHi 0 0 true).setRegs ((at_ .clkHi 0 0 true).regs.setClkQ false)) true false)
    fun t => decide (t.regs.phase = .sample) && t.outSclk := by decide
/-- A10: bit 31 is lost -/
theorem test_A10_sample : nextIs (acqStep (at_ .sample 5 0x80000001#32 true) true true) fun t =>
    decide (t.regs.phase = .clkLo) && decide (t.regs.acc = 0x00000003#32) && decide (t.regs.cnt = 6#6) := by decide
/-- A12: the last sample -/
theorem test_A12_sample_last : nextIs (acqStep (at_ .sample 31 0x00890000#32 true) true true) fun t =>
    decide (t.regs.phase = .finish) && decide (t.regs.acc = 0x01120001#32) && decide (t.regs.cnt = 32#6) := by decide
/-- A14 -/
theorem test_A14_finish : nextIs (acqStep (at_ .finish 32 0xFC8A1234#32 true) true true) fun t =>
    decide (t.regs.slot = ⟨0x008A1234#32, 2#3, 5#3, 0#2, 0x01234#17, 1234#16⟩) && t.outLedRdy
      && decide (t.regs.phase = .idle) && decide (t.regs.cnt = 0#6) && decide (t.regs.acc = 0xFC8A1234#32) := by decide
/-- A16: an edge in the FINISH step is dropped -/
theorem test_A16_finish_edge : nextIs (acqStep (at_ .finish 32 0 false) true false) fun t =>
    decide (t.regs.phase = .idle) && t.regs.rdyPrev && decide (select t.regs (.acq false true false) = .acqIdle) := by decide
/-- A17 -/
theorem test_A17_reset : nextIs (step ((at_ .clkLo 12 0 false).withInputs [.acq true true true])) fun t =>
    decide ({ t.regs with acc := 0#32 } = Regs.reset) := by decide
/-- A19 -/
theorem test_A19_unreachable : refusedFor (acqStep (at_ .unused 0 0 true) true false) .phaseUnreachable = true := by decide

/-! ### Decoding and display: sections 2.2, 2.3 -/

theorem test_decode_frame_all_ones : decodeFrame 0xFFFFFFFF#32 = ⟨0x03FFFFFF#32, 7#3, 7#3, 3#2, 0x1FFFF#17, 1#16⟩ := by decide
theorem test_decode_frame_dc : decodeFrame 0x01120001#32 = ⟨0x01120001#32, 4#3, 1#3, 1#2, 0x00001#17, 1#16⟩ := by decide
theorem test_decode_frame_bit25 : decodeFrame 0x02000000#32 = ⟨0x02000000#32, 0#3, 0#3, 0#2, 0#17, 0#16⟩ := by decide
theorem test_display_decimal : dispConv 0x19999#17 = 19999#16 ∧ dispConv 0x10009#17 = 10009#16 ∧ dispConv 0x00010#17 = 10#16
    ∧ dispConv 0x12345#17 = 12345#16 := by decide
theorem test_display_prefix : dispConv 0x1234F#17 = 1234#16 ∧ dispConv 0x1A000#17 = 1#16 ∧ dispConv 0x0000A#17 = 0#16
    ∧ dispConv 0x09A99#17 = 9#16 ∧ dispConv 0x03ABC#17 = 3#16 ∧ dispConv 0x00A10#17 = 0#16 := by decide
theorem test_hex5 : hex5 0x03ABC#17 = ['0', '3', 'A', 'B', 'C'] ∧ hex5 0x1FFFF#17 = ['1', 'F', 'F', 'F', 'F'] := by decide
/-- V-L1-2 -/
theorem test_hex8 : hex8 0x00123ABC#32 = ['0', '0', '1', '2', '3', 'A', 'B', 'C'] := by decide
/-- V-L1-5 -/
theorem test_sign_char : signChar (signOf 4#3 1#2) = '-' ∧ signChar (signOf 4#3 2#2) = '+' ∧ signChar (signOf 2#3 1#2) = '~'
    ∧ signChar (signOf 1#3 1#2) = ' ' := by decide
/-- R86: a query of more than one part takes them from one RD_SNAP -/
theorem test_queries_of_several_parts_take_one_snapshot : ∀ q : Query, 1 < (queryParts q).length → queryReads q = [0x0#4] := by
  intro q; cases q <;> decide
/-- R220: a transfer is 100 steps from START to FINISH inclusive -/
theorem test_transfer_steps : transferSteps = 100 ∧ stepsAfterStart = 99 := by decide
/-- R85: in `XFER` of `0x80000001`, step 5 samples bit 31, step 6 drives 0, step 98 samples bit 0 -/
theorem test_xfer_bits : expandLine (.xfer 0x80000001#32 true 5 6) = [.acq false true true, .acq false true false]
    ∧ expandLine (.xfer 0x80000001#32 true 98 99) = [.acq false true true, .acq false true false] := by decide

/-! ### Reads: section 2.4, on `DECODE(0x0083ABCD)`; then the DC scenario -/

theorem test_rd_snap : answers (holding 0x0083ABCD#32) 0x0#4 0x000E00010083ABCD#64 = true := by decide
theorem test_rd_mode : answers (holding 0x0083ABCD#32) 0x1#4 0x2#64 = true := by decide
theorem test_rd_range : answers (holding 0x0083ABCD#32) 0x2#4 0x1#64 = true := by decide
theorem test_rd_pol : answers (holding 0x01120001#32) 0x3#4 0x1#64 = true := by decide
theorem test_rd_draw : answers (holding 0x0083ABCD#32) 0x4#4 0x1ABCD#64 = true := by decide
theorem test_rd_dval : answers (holding 0x00819999#32) 0x5#4 0x4E1F#64 = true := by decide
theorem test_rd_raw : answers (holding 0xFFFFFFFF#32) 0x6#4 0x03FFFFFF#64 = true := by decide
theorem test_rd_mcls : answers (holding 0x01120001#32) 0x7#4 0x3#64 = true := by decide
theorem test_rd_sign : answers (holding 0x01120001#32) 0x8#4 0x2#64 = true := by decide
theorem test_rd_snap_dc : answers (holding 0x01120001#32) 0x0#4 0x000B000101120001#64 = true := by decide
theorem test_rd_reserved_9 : refusedFor (step (State.reset.withInputs [.read 0x9#4])) .reservedSelect = true := by decide
theorem test_rd_reserved_b : refusedFor (step (State.reset.withInputs [.read 0xB#4])) .reservedSelect = true := by decide
theorem test_rd_reserved_f : refusedFor (step (State.reset.withInputs [.read 0xF#4])) .reservedSelect = true := by decide

/-! ### Witnesses: concrete states and operands that meet the hypotheses of each statement that has some -/

theorem witness_DecodeInvertsEncode :
    (Instr.acqSample true).wellFormed = true ∧ decodeByte 0x1B#8 = .ok (.acqSample true) := by decide
theorem witness_EverySelectorMatchesExactlyOneRow :
    decodeSelector (.sel 0xB#4) = .ok (.reserved101x true) ∧ decodeSelector (.acqIn 0b010#3) = .error .rstLow := by decide
theorem witness_StepRunsTheSelectedOperation :
    decodeSelector (selectorOf State.reset.regs (.read 0x1#4)) = .ok .rdMode
      ∧ (State.reset.withInputs [.read 0x1#4]).inputs = .read 0x1#4 :: [] ∧ State.reset.inputs = [] := by decide
theorem witness_ResetGivesEveryElementItsValue : ∃ t, exec (.reset true false) (at_ .sample 7 0 false) = .next t := ⟨_, rfl⟩
theorem witness_IdleWaits : (at_ .idle 0 0 true).regs.phase = .idle ∧ (at_ .idle 0 0 true).regs.rdyPrev = true
    ∧ (at_ .idle 0 0 false).regs.rdyPrev = false ∧ (∃ t, exec (.reset true false) (at_ .sample 7 0 false) = .next t) :=
  ⟨rfl, rfl, rfl, ⟨_, rfl⟩⟩
theorem witness_RisingEdgeInIdleStartsATransfer :
    (at_ .idle 0 0 false).regs.phase = .idle ∧ (at_ .idle 0 0 false).regs.rdyPrev = false
      ∧ ∃ t, exec .acqStart (at_ .idle 0 9 false) = .next t := ⟨rfl, rfl, ⟨_, rfl⟩⟩
theorem witness_LoadOperationsDriveTheStrobe : ∃ t, acqStep (at_ .clkLo 0 0 true) true true = .next t
    ∧ (∀ r, ((at_ .clkLo 0 0 true).withInputs [.acq false true true]).fetch ≠ .acqLoadLo r)
    ∧ (at_ .clkLo 0 0 true).outLoad = true := ⟨_, rfl, by decide, rfl⟩
theorem witness_ClockOperationsDriveThePulse : ∃ t, acqStep (at_ .sample 0 0 true) true true = .next t
    ∧ (∀ r, ((at_ .sample 0 0 true).withInputs [.acq false true true]).fetch ≠ .acqClkLo r)
    ∧ (at_ .sample 0 0 true).outSclk = true := ⟨_, rfl, by decide, rfl⟩
theorem witness_SampleShiftsOneBitIn : (at_ .sample 31 0 true).regs.cnt.toNat ≤ 31 ∧ (List.replicate 32 true).length = 32
    ∧ Sound (at_ .sample 31 0 true) ∧ (at_ .sample 31 0 true).regs.phase = .sample := by decide
theorem witness_SnapshotPacksTheWholeReading : (holding 0xFFFFFFFF#32).regs.slotConsistent = true := by decide
theorem witness_DisplayValueReadIsAtMost19999 : (holding 0x00819999#32).regs.slotConsistent = true := by decide
theorem witness_FieldReadsReturnTheField : ∃ t, exec (.reset true false) (holding 0xFFFFFFFF#32) = .next t := ⟨_, rfl⟩
theorem witness_RawReadReturnsTheMaskedFrame : (holding 0xFFFFFFFF#32).regs.slotConsistent = true
    ∧ ∃ t, exec (.acqFinish true) (at_ .finish 32 0xFFFFFFFF#32 true) = .next t := ⟨by decide, ⟨_, rfl⟩⟩
theorem witness_ModeClassReadFollowsTheTable : ∃ t, exec (.reset false true) (holding 0xFFFFFFFF#32) = .next t := ⟨_, rfl⟩
theorem witness_EveryDefinedReadFitsItsWidth :
    (holding 0xFFFFFFFF#32).regs.slotConsistent = true ∧ (0x8#4).toNat ≤ 8 ∧ (0x0#4).toNat ≤ 8 := by decide
theorem witness_ResetReadingAnswersZero :
    (∃ t, exec (.reset false false) (holding 0xFFFFFFFF#32) = .next t) ∧ (0x8#4).toNat ≤ 8 := ⟨⟨_, rfl⟩, by decide⟩
theorem witness_RefusalsAreExactlyTwo :
    (∃ r, step (State.reset.withInputs [.read 0x9#4]) = .refused r) ∧ (∃ r, acqStep (at_ .unused 0 0 true) true true = .refused r)
      ∧ (∃ t, Host.Core.run Sys2Proof.core 1 (State.reset.withInputs [.acq false false false]) = .next t) :=
  ⟨⟨_, rfl⟩, ⟨_, rfl⟩, ⟨_, rfl⟩⟩
theorem witness_StepKeepsTheInvariant :
    Sound (at_ .sample 31 0 true) ∧ (∃ t, acqStep (at_ .sample 31 0 true) true true = .next t) := ⟨by decide, ⟨_, rfl⟩⟩
theorem witness_SoundStatesAlwaysGoOn :
    Sound State.reset ∧ ∀ e ∈ [Input.acq true true true, .read 0x8#4, .acq false true false], e.wellFormed = true := by decide
theorem witness_SlotIsTheDecodingOfOneFrame : (holding 5#32).regs.slot = decodeFrame 5#32
    ∧ ∃ t, acqStep (holding 5#32) true true = .next t := ⟨rfl, ⟨_, rfl⟩⟩
theorem witness_OnlyFinishAndResetWriteTheSlot :
    (∃ t, step ((at_ .finish 32 9 true).withInputs [.acq false true true]) = .next t)
      ∧ (∃ t, step ((at_ .finish 32 9 true).withInputs [.acq true true true]) = .next t)
      ∧ (∃ t, step ((at_ .finish 32 9 true).withInputs [.read 0x0#4]) = .next t) := ⟨⟨_, rfl⟩, ⟨_, rfl⟩, ⟨_, rfl⟩⟩
theorem witness_LatchesChangeOnlyInTheirOperations :
    nextIs (acqStep (at_ .loadLo 0 0 true) true true) (fun t => decide (t.outLoad ≠ (at_ .loadLo 0 0 true).outLoad)) = true
      ∧ nextIs (acqStep (at_ .clkLo 0 0 true) true true) (fun t => decide (t.outSclk ≠ (at_ .clkLo 0 0 true).outSclk)) = true
      ∧ nextIs (acqStep (at_ .finish 32 0 true) true true) (fun t => decide (t.outLedRdy ≠ (at_ .finish 32 0 true).outLedRdy)) = true
      ∧ (∀ rdy sd, ((at_ .loadLo 0 0 true).withInputs [.acq false true true]).fetch ≠ .reset rdy sd)
      ∧ Sound State.reset ∧ State.reset.regs.phase = .idle := by decide
theorem witness_RdyPrevHoldsTheLevelLastSeen :
    (∃ t, step (State.reset.withInputs [.acq true false true]) = .next t) ∧ (∃ t, acqStep State.reset false true = .next t)
      ∧ (∃ t, step (State.reset.withInputs [.read 0x2#4]) = .next t) := ⟨⟨_, rfl⟩, ⟨_, rfl⟩, ⟨_, rfl⟩⟩
theorem witness_BusyEdgeIsDropped : busy (at_ .finish 32 0 false).regs = true ∧ (at_ .finish 32 0 false).regs.phase ≠ .unused
    ∧ (at_ .idle 0 0 true).regs.phase = .idle ∧ (at_ .idle 0 0 true).regs.rdyPrev = true
    ∧ (at_ .idle 0 0 false).regs.rdyPrev = false := by decide
theorem witness_ReadsHaveNoSideEffect :
    (∃ t, step ((holding 7#32).withInputs [.read 0x6#4]) = .next t) ∧ (0x8#4).toNat ≤ 8
      ∧ (holding 7#32).regs.slot = ((holding 7#32).setRdData 9#64).regs.slot := ⟨⟨_, rfl⟩, by decide, rfl⟩
theorem witness_ReadsDoNotDisturbAcquisition : (at_ .sample 3 0 true).regs.phase ≠ .unused
    ∧ ∀ e ∈ [Input.read 0x0#4, .acq false true true, .read 0x8#4], e.wellFormed = true := by decide
theorem witness_ReadsDuringATransferSeeTheOldReading :
    (at_ .idle 0 0 false).regs.phase = .idle ∧ (at_ .idle 0 0 false).regs.rdyPrev = false
      ∧ (∀ e ∈ Input.read 0x0#4 :: List.replicate 98 (Input.acq false true true),
          e.wellFormed = true ∧ ∀ rdy d, e ≠ .acq true rdy d)
      ∧ ((Input.read 0x0#4 :: List.replicate 98 (Input.acq false true true)).filter Input.isAcq).length ≤ 98 := by
  refine ⟨rfl, rfl, ?_, by decide⟩
  intro e he
  simp only [List.mem_cons, List.mem_replicate] at he
  rcases he with rfl | ⟨_, rfl⟩ <;> simp [Input.wellFormed]
theorem witness_TransferPublishesTheSampledFrame : (at_ .idle 0 0 false).regs.phase = .idle
    ∧ (at_ .idle 0 0 false).regs.rdyPrev = false ∧ (List.replicate 99 (true, false)).length = 99 := by decide
theorem witness_TransferFollowsItsWaveform : (at_ .idle 0 0 false).regs.phase = .idle
    ∧ (at_ .idle 0 0 false).regs.rdyPrev = false ∧ (at_ .idle 0 0 false).regs.loadQ = true
    ∧ (at_ .idle 0 0 false).regs.clkQ = true ∧ (List.replicate 99 (true, false)).length = 99 ∧ 0 ≤ 99 ∧ 98 < 99 ∧ 99 ≤ 99 := by decide
theorem witness_StartsAreAtLeast100StepsApart : (at_ .idle 0 0 false).regs.phase = .idle
    ∧ (at_ .idle 0 0 false).regs.rdyPrev = false ∧ (List.replicate 98 (true, true) ++ [(false, true)]).length = 99
    ∧ (List.replicate 98 (true, true) ++ [(false, true)])[98]? = some (false, true) := by decide
theorem witness_StartsAreAtLeast100StepsApart_first_step :
    ∃ t, Host.Core.run Sys2Proof.core 1 ((at_ .idle 0 0 false).withInputs
      (.acq false true true :: (List.replicate 99 (true, true)).map (fun p => .acq false p.1 p.2) ++ [])) = .next t := ⟨_, rfl⟩
theorem witness_XferMacroTransfersItsFrame :
    (at_ .idle 0 0 false).regs.phase = .idle ∧ (at_ .idle 0 0 false).regs.rdyPrev = false := by decide
theorem witness_RdyHeldHighStartsNothing : State.reset.regs.phase = .idle ∧ State.reset.regs.rdyPrev = true := by decide
theorem witness_LedCarriesTheTransferParity : State.reset.outLedRdy = decide (0 % 2 = 1)
    ∧ ∃ t, Host.Core.run Sys2Proof.core 1 ((at_ .finish 32 0 true).withInputs [.acq false true true]) = .next t := ⟨rfl, ⟨_, rfl⟩⟩
theorem witness_DiscardedBitsNeverMatter : ∀ k < 26, (0xFC000001#32).getLsbD k = (0x00000001#32).getLsbD k := by decide
/-- One bit of each field, at its edges: 31 and 26 (none), 25, 24 and 22 (MODE), 21 and 20 (POL), 19 and 17 (RANGE), 16 and 0. -/
theorem witness_FrameBitsFeedDisjointFields :
    decodeFrame (0#32 ^^^ (1#32 <<< 31)) = decodeFrame 0#32 ∧ decodeFrame (0#32 ^^^ (1#32 <<< 26)) = decodeFrame 0#32
      ∧ (decodeFrame (0#32 ^^^ (1#32 <<< 25))).mode = 0#3 ∧ (decodeFrame (0#32 ^^^ (1#32 <<< 24))).mode = 4#3
      ∧ (decodeFrame (0#32 ^^^ (1#32 <<< 22))).mode = 1#3 ∧ (decodeFrame (0#32 ^^^ (1#32 <<< 21))).pol = 2#2
      ∧ (decodeFrame (0#32 ^^^ (1#32 <<< 20))).pol = 1#2 ∧ (decodeFrame (0#32 ^^^ (1#32 <<< 19))).range = 4#3
      ∧ (decodeFrame (0#32 ^^^ (1#32 <<< 17))).range = 1#3 ∧ (decodeFrame (0#32 ^^^ (1#32 <<< 16))).draw = 0x10000#17
      ∧ (decodeFrame (0#32 ^^^ (1#32 <<< 0))).draw = 1#17 := by decide
theorem witness_DecimalDisplayConvertsAsBcd : ∀ k ≤ 4, (displayNibble 0x19999#17 k).toNat ≤ 9 := by decide
theorem witness_HexRenderingsReadBack : (0x03FFFFFF#32).toNat < 2 ^ 26 := by decide

end Sys2Proof.Tests
end

section
/-! SUPPORT. RDY_PREV along a step (R28): what each kind of step leaves in it. -/

namespace Sys2Proof.Machine

/-- RISE is the edge from the level last seen to the level seen now (R28). -/
theorem riseOf_eq_true_iff (r : Regs) (rdy : Level) : riseOf r rdy = true ↔ r.rdyPrev = false ∧ rdy = true := by
  simp [riseOf]

/-- Every ACQ step but RESET stores the level of RDY it saw, whatever its phase (R28, R100). -/
theorem acqRegs_rdyPrev {r r' : Regs} {rdy sdata : Level} (h : acqRegs r rdy sdata = some r') : r'.rdyPrev = rdy := by
  cases hp : r.phase <;> simp only [acqRegs, hp, Option.some.injEq, reduceCtorEq] at h <;> subst h
  case idle => split <;> rfl
  all_goals rfl

/-- RESET leaves RDY_PREV at 1, so a level of RDY held at 1 is no edge after it (R36). -/
theorem step_rdyPrev_of_reset {s t : State} {rdy sdata : Level} (h : step s = .next t)
    (hi : s.nextInput = .acq true rdy sdata) : t.regs.rdyPrev = true := by
  rw [step_reset s rdy sdata hi] at h
  cases h
  rfl

theorem step_rdyPrev_of_acq {s t : State} {rdy sdata : Level} (h : step s = .next t)
    (hi : s.nextInput = .acq false rdy sdata) : t.regs.rdyPrev = rdy := by
  rw [step_acq s rdy sdata hi] at h
  cases hr : acqRegs s.regs rdy sdata with
  | none => simp [hr] at h
  | some r =>
    simp only [hr, Host.Outcome.next.injEq] at h
    subst h
    exact acqRegs_rdyPrev hr

/-- A read writes no element of `S` (R160). -/
theorem step_regs_of_read {s t : State} {sel : BitVec 4} (h : step s = .next t)
    (hi : s.nextInput = .read sel) : t.regs = s.regs := by
  rw [step_read s sel hi] at h
  cases hv : rdAnswer sel s.regs.slot with
  | none => simp [hv] at h
  | some v =>
    simp only [hv, Host.Outcome.next.injEq] at h
    subst h
    rfl

end Sys2Proof.Machine

open Sys2Proof.Machine

/-- Settles O29: each kind of step, by its input, with the lemma of that kind. -/
theorem rdyPrevHoldsTheLevelLastSeen : Obligations.RdyPrevHoldsTheLevelLastSeen := by
  refine ⟨riseOf_eq_true_iff, fun s t rdy sd h => ⟨?reset, ?acq⟩, fun s t sel h hi => ?read⟩
  case reset => exact step_rdyPrev_of_reset h
  case acq => exact step_rdyPrev_of_acq h
  case read => rw [step_regs_of_read h hi]

end

section
/-! SUPPORT. What each ACQ operation writes (spec/40_acquisition.md R101 to R109), which one an ACQ step selects, and
what RDY and the operations do to RDY_PREV and LOAD. -/

namespace Sys2Proof.Machine

/-! ### The operations, as writes of `S` -/

theorem exec_acqIdle (s : State) :
    exec .acqIdle s = .next { s with regs := { s.regs with phase := .idle, rdyPrev := s.pins.rdy } } := rfl

theorem exec_acqStart (s : State) :
    exec .acqStart s =
      .next { s with regs := { s.regs with cnt := 0#6, phase := .loadLo, rdyPrev := s.pins.rdy } } := rfl

theorem exec_acqLoadLo (r : Level) (s : State) :
    exec (.acqLoadLo r) s =
      .next { s with regs := { s.regs with loadQ := false, phase := .loadHi, rdyPrev := s.pins.rdy } } := rfl

theorem exec_acqLoadHi (r : Level) (s : State) :
    exec (.acqLoadHi r) s =
      .next { s with regs := { s.regs with loadQ := true, phase := .clkLo, rdyPrev := s.pins.rdy } } := rfl

theorem exec_acqFinish (r : Level) (s : State) :
    exec (.acqFinish r) s = .next { s with regs := { s.regs with
      slot := decodeFrame s.regs.acc, ledQ := !s.regs.ledQ, cnt := 0#6, phase := .idle
      rdyPrev := s.pins.rdy } } := rfl

/-! ### Selection of an ACQ step -/

theorem riseOf_eq_false_iff (r : Regs) (rdy : Level) : riseOf r rdy = false ↔ r.rdyPrev = true ∨ rdy = false := by
  cases h : r.rdyPrev <;> simp [riseOf, h]

/-- With RST = 0 the phase and RISE select the operation of an ACQ step (R78). -/
theorem fetch_of_acq {s : State} {rdy sdata : Level} (hi : s.nextInput = .acq false rdy sdata) :
    s.fetch = acqOperation s.regs.phase (riseOf s.regs rdy) := by
  rw [State.fetch, hi, select_acq]

theorem select_acqIdle {r : Regs} {rdy : Level} (sdata : Level) (hp : r.phase = .idle) (hr : riseOf r rdy = false) :
    select r (.acq false rdy sdata) = .acqIdle := by
  rw [select_acq, hp, hr]
  rfl

theorem select_acqStart {r : Regs} {rdy : Level} (sdata : Level) (hp : r.phase = .idle) (hr : riseOf r rdy = true) :
    select r (.acq false rdy sdata) = .acqStart := by
  rw [select_acq, hp, hr]
  rfl

theorem select_acqLoadLo {r : Regs} (rdy sdata : Level) (hp : r.phase = .loadLo) :
    select r (.acq false rdy sdata) = .acqLoadLo (riseOf r rdy) := by
  rw [select_acq, hp]
  rfl

/-- A scheduled ACQ step answers the next state with `acqRegs` as its `S`, and the rest of the schedule. -/
theorem step_scheduled_acq {s : State} {rdy sdata : Level} {r : Regs} (rest : List Input)
    (h : acqRegs s.regs rdy sdata = some r) :
    step (s.withInputs (.acq false rdy sdata :: rest)) =
      .next ((s.withInputs (.acq false rdy sdata :: rest)).present.setRegs r) := by
  have h' : acqRegs (s.withInputs (.acq false rdy sdata :: rest)).regs rdy sdata = some r := h
  rw [step_acq _ rdy sdata rfl, h']

/-! ### RDY while BUSY -/

/-- While BUSY the level of RDY goes to RDY_PREV and nowhere else (R103). -/
theorem acqRegs_of_busy {r : Regs} (rdy rdy' sdata : Level) (hb : busy r = true) :
    acqRegs r rdy' sdata = (acqRegs r rdy sdata).map (·.setRdyPrev rdy') := by
  cases hp : r.phase
  case idle => simp [busy, hp] at hb
  all_goals simp only [acqRegs, hp]; rfl

/-! ### LOAD along a step -/

/-- Only the two load operations write LOAD_Q (R104, R105, R113). -/
theorem acqRegs_loadQ {r r' : Regs} {rdy sdata : Level} (h : acqRegs r rdy sdata = some r') :
    r'.loadQ = if r.phase = .loadLo then false else if r.phase = .loadHi then true else r.loadQ := by
  cases hp : r.phase <;> simp only [acqRegs, hp, Option.some.injEq, reduceCtorEq] at h <;> subst h
  case idle => split <;> rfl
  all_goals rfl

/-- A high LOAD stays high in every step but ACQ_LOAD_LO (R105). -/
theorem step_outLoad_stays_high {s t : State} (h : step s = .next t) (hn : ∀ r, s.fetch ≠ .acqLoadLo r)
    (hl : s.outLoad = true) : t.outLoad = true := by
  rcases step_next_cases h with ⟨_, _, _, _, hreset, _, _⟩ | ⟨rdy, _, r, hi, hr, rfl⟩ | ⟨_, _, _, _, rfl⟩
  · simp only [State.outLoad, hreset, Regs.afterReset]
  · have hp : s.regs.phase ≠ .loadLo := fun hp => hn (riseOf s.regs rdy) (by rw [fetch_of_acq hi, hp]; rfl)
    have hl' : s.regs.loadQ = true := hl
    simp [State.outLoad, acqRegs_loadQ hr, hp, hl']
  · exact hl

end Sys2Proof.Machine

open Sys2Proof.Machine

/-- Settles O30: while BUSY the two levels of RDY give one `acqRegs` but for RDY_PREV, and some answer exists since
PHASE is used; back in IDLE selection follows RISE. -/
theorem busyEdgeIsDropped : Obligations.BusyEdgeIsDropped := by
  refine ⟨fun s rest rdy rdy' sd hb hu => ?busy, fun r sd hp hr => ?held, fun r sd hp hr => ?edge⟩
  case busy =>
    obtain ⟨r, hr⟩ : ∃ r, acqRegs s.regs rdy sd = some r := by
      rw [← Option.isSome_iff_exists, acqRegs_isSome, decide_eq_true hu]
    have hr' : acqRegs s.regs rdy' sd = some (r.setRdyPrev rdy') := by
      rw [acqRegs_of_busy rdy rdy' sd hb, hr, Option.map_some]
    exact ⟨_, _, step_scheduled_acq rest hr, step_scheduled_acq rest hr', acqRegs_rdyPrev hr, rfl, rfl, rfl⟩
  case held => exact select_acqIdle sd hp ((riseOf_eq_false_iff r true).2 (.inl hr))
  case edge => exact select_acqStart sd hp ((riseOf_eq_true_iff r true).2 ⟨hr, rfl⟩)

/-- Settles O6: with no edge RISE is 0, which in IDLE selects ACQ_IDLE; RESET leaves IDLE and RDY_PREV = 1, so a level
held at 1 is no edge after it. -/
theorem idleWaits : Obligations.IdleWaits := by
  refine ⟨fun r rdy sd hp hr => ?noEdge, decodeAsel_aselWord .idle false, exec_acqIdle, fun s t sd sd' h => ?held⟩
  case noEdge => exact select_acqIdle sd hp ((riseOf_eq_false_iff r rdy).2 hr)
  case held =>
    rw [exec_reset] at h
    cases h
    exact select_acqIdle sd' rfl rfl

/-- Settles O7: an edge in IDLE selects ACQ_START, whose LOAD_LO selects ACQ_LOAD_LO whatever RDY is then. -/
theorem risingEdgeInIdleStartsATransfer : Obligations.RisingEdgeInIdleStartsATransfer := by
  refine ⟨fun r sd hp hr => ?edge, decodeAsel_aselWord .idle true, exec_acqStart, fun s t rdy sd h => ?next⟩
  case edge => exact select_acqStart sd hp ((riseOf_eq_true_iff r true).2 ⟨hr, rfl⟩)
  case next =>
    rw [exec_acqStart] at h
    cases h
    exact ⟨select_acqLoadLo rdy sd rfl, _, exec_acqLoadLo _ _, rfl⟩

/-- Settles O8: the two operations' equations, and LOAD along a step. -/
theorem loadOperationsDriveTheStrobe : Obligations.LoadOperationsDriveTheStrobe :=
  ⟨fun r s => ⟨decodeAsel_aselWord .loadLo r, exec_acqLoadLo r s⟩,
   fun r s => ⟨decodeAsel_aselWord .loadHi r, exec_acqLoadHi r s⟩,
   fun _ _ => step_outLoad_stays_high⟩

/-- Settles O11: the operation's equation, with RAW the frame under the mask of R131. -/
theorem finishPublishesTheDecodedFrame : Obligations.FinishPublishesTheDecodedFrame :=
  fun r s => ⟨decodeAsel_aselWord .finish r, exec_acqFinish r s, rfl⟩

end

section
/-! SUPPORT. A field of a frame, read by position and width, is the source's shift and mask of it
(spec/41_decode.md R131 to R135). -/

namespace Sys2Proof.Machine

/-- The mask of the `n` low bits keeps the value modulo `2 ^ n`. -/
theorem toNat_and_lowMask {w : Nat} (x : BitVec w) {n : Nat} (hn : n ≤ w) :
    (x &&& BitVec.ofNat w (2 ^ n - 1)).toNat = x.toNat % 2 ^ n := by
  have hmask : 2 ^ n - 1 < 2 ^ w :=
    Nat.lt_of_lt_of_le (Nat.sub_lt n.two_pow_pos Nat.one_pos) (Nat.pow_le_pow_right Nat.two_pos hn)
  rw [BitVec.toNat_and, BitVec.toNat_ofNat, Nat.mod_eq_of_lt hmask, Nat.and_two_pow_sub_one_eq_mod]

/-- A field of `n` bits at `pos`, zero-extended, is the word shifted down by `pos` under the mask of `n` bits. -/
theorem setWidth_extractLsb'_eq_shift_and_lowMask {w : Nat} (x : BitVec w) (pos : Nat) {n : Nat} (hn : n ≤ w) :
    (x.extractLsb' pos n).setWidth w = (x >>> pos) &&& BitVec.ofNat w (2 ^ n - 1) := by
  apply BitVec.eq_of_toNat_eq
  rw [toNat_and_lowMask _ hn, BitVec.toNat_setWidth_of_le hn, BitVec.extractLsb'_toNat, BitVec.toNat_ushiftRight]

theorem extMode_eq_shift_and_mask (f : Frame) : (extMode f).setWidth 32 = (f >>> 22) &&& 0x7#32 :=
  setWidth_extractLsb'_eq_shift_and_lowMask f Config.modePos (by decide : 3 ≤ 32)

theorem extRange_eq_shift_and_mask (f : Frame) : (extRange f).setWidth 32 = (f >>> 17) &&& 0x7#32 :=
  setWidth_extractLsb'_eq_shift_and_lowMask f Config.rangePos (by decide : 3 ≤ 32)

theorem extPol_eq_shift_and_mask (f : Frame) : (extPol f).setWidth 32 = (f >>> 20) &&& 0x3#32 :=
  setWidth_extractLsb'_eq_shift_and_lowMask f Config.polPos (by decide : 2 ≤ 32)

theorem extDraw_eq_mask (f : Frame) : (extDraw f).setWidth 32 = f &&& 0x1FFFF#32 := by
  have h := setWidth_extractLsb'_eq_shift_and_lowMask f Config.drawPos (by decide : 17 ≤ 32)
  rwa [BitVec.ushiftRight_zero] at h

end Sys2Proof.Machine

open Sys2Proof.Machine

/-- Settles O41: RAW is the mask by definition, and each other field is its shift and mask by the lemma of its
extractor. -/
theorem decodeFollowsTheSourceMasks : Obligations.DecodeFollowsTheSourceMasks := fun f =>
  ⟨rfl, extMode_eq_shift_and_mask f, extRange_eq_shift_and_mask f, extPol_eq_shift_and_mask f, extDraw_eq_mask f⟩

end

section
/-! SUPPORT. What the reads of one part of the reading answer (spec/42_readport.md R162 to R165, R167 to R169), each
from the answer of its select, and the reading they find after RESET and after a publish. -/

namespace Sys2Proof.Machine

/-! ### The reads, as writes of RD_DATA -/

/-- A defined select's operation puts the answer of the select on RD_DATA and changes nothing else (R160). -/
theorem exec_of_rdAnswer {i : Instr} {v : RdWord} (s : State) (sel : BitVec 4) (hsel : decodeSel sel = i)
    (hv : rdAnswer sel s.regs.slot = some v) : exec i s = .next { s with rdData := v } := by
  rw [← hsel, exec_decodeSel, hv]
  rfl

theorem exec_rdMode (s : State) :
    exec .rdMode s = .next { s with rdData := BitVec.ofNat 64 s.regs.slot.mode.toNat } :=
  exec_of_rdAnswer s 0x1#4 rfl (congrArg some (setWidth_eq_ofNat s.regs.slot.mode 64))

theorem exec_rdRange (s : State) :
    exec .rdRange s = .next { s with rdData := BitVec.ofNat 64 s.regs.slot.range.toNat } :=
  exec_of_rdAnswer s 0x2#4 rfl (congrArg some (setWidth_eq_ofNat s.regs.slot.range 64))

theorem exec_rdPol (s : State) :
    exec .rdPol s = .next { s with rdData := BitVec.ofNat 64 s.regs.slot.pol.toNat } :=
  exec_of_rdAnswer s 0x3#4 rfl (congrArg some (setWidth_eq_ofNat s.regs.slot.pol 64))

theorem exec_rdDraw (s : State) :
    exec .rdDraw s = .next { s with rdData := BitVec.ofNat 64 s.regs.slot.draw.toNat } :=
  exec_of_rdAnswer s 0x4#4 rfl (congrArg some (setWidth_eq_ofNat s.regs.slot.draw 64))

theorem exec_rdRaw (s : State) :
    exec .rdRaw s = .next { s with rdData := BitVec.ofNat 64 s.regs.slot.raw.toNat } :=
  exec_of_rdAnswer s 0x6#4 rfl (congrArg some (setWidth_eq_ofNat s.regs.slot.raw 64))

/-! ### The class codes as answered (R82) -/

/-- The table of R141 with the codes of R82, over the eight modes. -/
theorem setWidth_mclsCode_mcls (mode : BitVec 3) :
    (mclsCode (mcls mode)).setWidth 64 =
      if mode = 1#3 then 1#64 else if mode = 2#3 then 2#64 else if mode = 4#3 then 3#64 else 0#64 := by
  revert mode
  decide

/-- The table of R142 with the codes of R82: POL counts in mode 4 only. -/
theorem setWidth_signCode_signOf (mode : BitVec 3) (pol : BitVec 2) :
    (signCode (signOf mode pol)).setWidth 64 =
      if mode = 4#3 then (if pol = 1#2 then 2#64 else 1#64) else if mode = 2#3 then 3#64 else 0#64 := by
  by_cases hdc : mode = 4#3
  · by_cases hminus : pol = 1#2 <;> simp [signOf, hdc, hminus, signCode]
  · by_cases hac : mode = 2#3 <;> simp [signOf, hdc, hac, signCode]

theorem exec_rdMcls (s : State) :
    exec .rdMcls s = .next { s with rdData :=
      if s.regs.slot.mode = 1#3 then 1#64
      else if s.regs.slot.mode = 2#3 then 2#64
      else if s.regs.slot.mode = 4#3 then 3#64
      else 0#64 } :=
  exec_of_rdAnswer s 0x7#4 rfl (congrArg some (setWidth_mclsCode_mcls s.regs.slot.mode))

theorem exec_rdSign (s : State) :
    exec .rdSign s = .next { s with rdData :=
      if s.regs.slot.mode = 4#3 then (if s.regs.slot.pol = 1#2 then 2#64 else 1#64)
      else if s.regs.slot.mode = 2#3 then 3#64
      else 0#64 } :=
  exec_of_rdAnswer s 0x8#4 rfl
    (congrArg some (setWidth_signCode_signOf s.regs.slot.mode s.regs.slot.pol))

/-! ### The reading after RESET and after a publish -/

theorem slot_of_exec_reset {s t : State} {rdy sdata : Level} (h : exec (.reset rdy sdata) s = .next t) :
    t.regs.slot = decodeFrame 0#32 := by
  rw [exec_reset] at h
  cases h
  rfl

/-- Mode 0, an error mode, is what the zero frame of RESET decodes to (R36). -/
theorem slot_mode_of_exec_reset {s t : State} {rdy sdata : Level} (h : exec (.reset rdy sdata) s = .next t) :
    t.regs.slot.mode = 0#3 := by
  rw [slot_of_exec_reset h]
  rfl

theorem slot_of_exec_acqFinish {s t : State} {r : Level} (h : exec (.acqFinish r) s = .next t) :
    t.regs.slot = decodeFrame s.regs.acc := by
  rw [exec_acqFinish] at h
  cases h
  rfl

/-- RAW of a published frame is the frame without its discarded bits 31:26 (R71, R109). -/
theorem slot_raw_toNat_of_exec_acqFinish {s t : State} {r : Level} (h : exec (.acqFinish r) s = .next t) :
    t.regs.slot.raw.toNat = s.regs.acc.toNat % 2 ^ 26 := by
  rw [slot_of_exec_acqFinish h]
  exact extRaw_toNat s.regs.acc

end Sys2Proof.Machine

open Sys2Proof.Machine

/-- Settles O13: the four reads' equations; after RESET the mode they find is 0. -/
theorem fieldReadsReturnTheField : Obligations.FieldReadsReturnTheField := by
  refine ⟨rfl, rfl, rfl, rfl, fun s t rdy sd h => ⟨_, exec_rdMode t, ?reset⟩,
    fun s => ⟨exec_rdMode s, exec_rdRange s, exec_rdPol s, exec_rdDraw s⟩⟩
  case reset => simp [slot_mode_of_exec_reset h]

/-- Settles O15: the read's equation, and RAW's bound on a consistent reading; the RAW of a publish fits RD_DATA, so
zero-extension keeps its value. -/
theorem rawReadReturnsTheMaskedFrame : Obligations.RawReadReturnsTheMaskedFrame := by
  refine ⟨rfl, fun s => ⟨exec_rdRaw s, raw_lt_of_consistent⟩, fun s t r h => ⟨_, exec_rdRaw t, ?publish⟩⟩
  case publish =>
    have hfits : s.regs.acc.toNat % 2 ^ 26 < 2 ^ 64 := by omega
    rw [slot_raw_toNat_of_exec_acqFinish h, BitVec.toNat_ofNat, Nat.mod_eq_of_lt hfits]

/-- Settles O16: the read's equation is the table; RESET leaves mode 0, which is none of its three modes. -/
theorem modeClassReadFollowsTheTable : Obligations.ModeClassReadFollowsTheTable := by
  refine ⟨rfl, fun s t rdy sd h => ⟨_, exec_rdMcls t, ?reset⟩, exec_rdMcls⟩
  case reset => simp [slot_mode_of_exec_reset h]

/-- Settles O17: the read's equation is the table, on the MODE and POL of one SLOT. -/
theorem signReadFollowsTheTable : Obligations.SignReadFollowsTheTable := ⟨rfl, exec_rdSign⟩

end

section
/-! SUPPORT. When a step is refused (spec/60_exceptions.md R191), by the kind of its input, and what holds along a run
when every step keeps it. -/

namespace Sys2Proof.Machine

/-! ### No meaning: the unused code and the reserved selects -/

theorem acqRegs_eq_none_iff (r : Regs) (rdy sdata : Level) : acqRegs r rdy sdata = none ↔ r.phase = .unused := by
  rw [← Option.not_isSome_iff_eq_none, acqRegs_isSome, decide_eq_true_iff, not_not]

theorem rdAnswer_eq_none_iff (sel : BitVec 4) (r : Reading) : rdAnswer sel r = none ↔ 9 ≤ sel.toNat := by
  rw [← Option.not_isSome_iff_eq_none, rdAnswer_isSome, decide_eq_true_iff, Nat.not_le, Nat.lt_iff_add_one_le]

/-! ### The refusals of a step -/

/-- RESET completes from every state (R210). -/
theorem step_ne_refused_of_reset {s : State} {rdy sdata : Level} (hi : s.nextInput = .acq true rdy sdata)
    (q : Refusal) : step s ≠ .refused q := by
  rw [step_reset s rdy sdata hi]
  exact nofun

theorem step_refused_iff_of_acq {s : State} {rdy sdata : Level} (hi : s.nextInput = .acq false rdy sdata)
    (q : Refusal) : step s = .refused q ↔ q = .phaseUnreachable ∧ s.regs.phase = .unused := by
  rw [step_acq s rdy sdata hi, ← acqRegs_eq_none_iff s.regs rdy sdata]
  cases acqRegs s.regs rdy sdata with
  | none => simp [eq_comm]
  | some r => simp

theorem step_refused_iff_of_read {s : State} {sel : BitVec 4} (hi : s.nextInput = .read sel) (q : Refusal) :
    step s = .refused q ↔ q = .reservedSelect ∧ 9 ≤ sel.toNat := by
  rw [step_read s sel hi, ← rdAnswer_eq_none_iff sel s.regs.slot]
  cases rdAnswer sel s.regs.slot with
  | none => simp [eq_comm]
  | some v => simp

/-- The two refusals of R191 in one statement, by the input of the step. -/
theorem step_refused_iff (s : State) (q : Refusal) :
    step s = .refused q ↔
      (q = .reservedSelect ∧ ∃ sel : BitVec 4, s.nextInput = .read sel ∧ 9 ≤ sel.toNat)
      ∨ (q = .phaseUnreachable ∧ s.regs.phase = .unused ∧ ∃ rdy sd, s.nextInput = .acq false rdy sd) := by
  cases hi : s.nextInput with
  | read sel => simp [step_refused_iff_of_read hi]
  | acq rst rdy sdata =>
    cases rst with
    | true => simp [step_ne_refused_of_reset hi]
    | false => simp [step_refused_iff_of_acq hi]

/-! ### Runs -/

/-- What every step keeps holds at the end of a run that completes, if it holds at its start. -/
theorem run_keeps {P : State → Prop} (hstep : ∀ s t, P s → step s = .next t → P t) {n : Nat} {s t : State}
    (hs : P s) (h : Host.Core.run Sys2Proof.core n s = .next t) : P t := by
  induction n generalizing s with
  | zero => cases h; exact hs
  | succ n ih =>
    rw [run_succ] at h
    cases hn : step s with
    | next u => rw [hn] at h; exact ih (hstep s u hs hn) h
    | fault f => rw [hn] at h; cases h
    | refused q => rw [hn] at h; cases h

/-- RESET leaves IDLE, an ACQ step never enters the unused code (R87), and a read keeps the phase (R160). -/
theorem step_keeps_phase_used (s t : State) (hp : s.regs.phase ≠ .unused) (h : step s = .next t) :
    t.regs.phase ≠ .unused := by
  rcases step_next_cases h with ⟨_, _, _, _, hreset, _, _⟩ | ⟨_, _, _, _, hr, rfl⟩ | ⟨_, _, _, _, rfl⟩
  · rw [hreset]; exact nofun
  · exact acqRegs_phase_ne_unused hr
  · exact hp

end Sys2Proof.Machine

open Sys2Proof.Machine

/-- Settles O22: `Fault` has no value; the refusals by the input of the step; and reset's IDLE is a used code, which
every step keeps, whatever the schedule. -/
theorem refusalsAreExactlyTwo : Obligations.RefusalsAreExactlyTwo := by
  refine ⟨fun s f => ?noFault, step_refused_iff, fun n evs t h => ?unreachable⟩
  case noFault => cases f
  case unreachable =>
    have hidle : (State.reset.withInputs evs).regs.phase ≠ .unused := nofun
    exact run_keeps (P := fun s => s.regs.phase ≠ .unused) step_keeps_phase_used hidle h

end

section
/-! SUPPORT. RESET repeated (spec/70_reset_and_hazards.md R210): the states it leaves differ only in ACC. -/

namespace Sys2Proof.Machine

/-- ACC is the one element of `S` that RESET leaves open (R36). -/
theorem Regs.afterReset_with_acc (a b : BitVec 32) : { Regs.afterReset a with acc := b } = Regs.afterReset b := rfl

/-- RESET leaves `Regs.afterReset` of the ACC it leaves, whatever state it started in. -/
theorem regs_of_exec_reset {s t : State} {rdy sdata : Level} (h : exec (.reset rdy sdata) s = .next t) :
    t.regs = Regs.afterReset t.regs.acc := by
  rw [exec_reset] at h
  cases h
  rfl

end Sys2Proof.Machine

open Sys2Proof.Machine

/-- Settles O5: RST = 1 overrides the phase's operation; the writes are RESET's equation, with the free value drawn as
ACC; and both RESETs leave `Regs.afterReset`, so the second, given the first one's ACC, changes nothing. -/
theorem resetGivesEveryElementItsValue : Obligations.ResetGivesEveryElementItsValue := by
  refine ⟨select_reset, fun s rdy sd => ⟨_, exec_reset s rdy sd⟩,
    fun s t rdy sd rdy' sd' h => ⟨_, exec_reset t rdy' sd', ?repeated⟩⟩
  case repeated =>
    calc { Regs.afterReset (Sys2Proof.Config.freeAcc t.draws) with acc := t.regs.acc }
      _ = Regs.afterReset t.regs.acc := Regs.afterReset_with_acc _ _
      _ = t.regs := (regs_of_exec_reset h).symm

end

section
/-! SUPPORT. Selectors and operations: decoding and encoding undo each other (spec/30_encoding.md R77 to R79), a row of
the opcode table is matched exactly by the selectors of its operation, and a step selects as the tables do. -/

namespace Sys2Proof

/-! ### Selectors -/

theorem decodeSelector_encodeSelector (i : Instr) : decodeSelector (encodeSelector i) = .ok i := by
  cases i with
  | reset rdy sdata => cases rdy <;> cases sdata <;> rfl
  | acqLoadLo rise | acqLoadHi rise | acqClkLo rise | acqClkHi rise | acqSample rise | acqFinish rise
  | phaseUnreachable rise => cases rise <;> rfl
  | reserved101x x => cases x <;> rfl
  | reserved11xx xx => revert xx; decide
  | _ => rfl

theorem encodeSelector_decodeAsel (w : BitVec 4) : encodeSelector (decodeAsel w) = .asel w := by
  revert w; decide

theorem encodeSelector_decodeSel (w : BitVec 4) : encodeSelector (decodeSel w) = .sel w := by
  revert w; decide

/-- An ACQ_IN word is RST, RDY and SDATA, most significant first (R77). -/
theorem acqIn_word_of_rst (w : BitVec 3) (h : w.getLsbD 2 = true) :
    0b1#1 ++ BitVec.ofBool (w.getLsbD 1) ++ BitVec.ofBool (w.getLsbD 0) = w := by
  revert w; decide

/-- No two selectors select one operation. -/
theorem encodeSelector_of_decodeSelector {sel : Selector} {i : Instr} (h : decodeSelector sel = .ok i) :
    encodeSelector i = sel := by
  cases sel with
  | asel w => cases h; exact encodeSelector_decodeAsel w
  | sel w => cases h; exact encodeSelector_decodeSel w
  | acqIn w =>
    simp only [decodeSelector] at h
    split at h
    next hrst => cases h; exact congrArg Selector.acqIn (acqIn_word_of_rst w hrst)
    next => cases h

/-! ### The byte carrier -/

theorem byteSelector_selectorByte (sel : Selector) : byteSelector (selectorByte sel) = .ok sel := by
  cases sel <;> decide +revert

theorem decodeByte_selectorByte (sel : Selector) : decodeByte (selectorByte sel) = decodeSelector sel := by
  rw [decodeByte, byteSelector_selectorByte]

/-- A byte is its format above its word. -/
theorem byte_eq_of_format {b : BitVec 8} {n : Nat} (h : (b.extractLsb' 4 4).toNat = n) :
    BitVec.ofNat 4 n ++ b.extractLsb' 0 4 = b := by
  subst h
  rw [BitVec.ofNat_toNat, BitVec.setWidth_eq]
  exact (BitVec.extractLsb'_append_extractLsb'_eq_extractLsb' rfl).trans BitVec.extractLsb'_eq_self

/-- In a byte of format ACQ_IN bit 3 stands between the format and the word. -/
theorem byte_eq_of_acqIn {b : BitVec 8} (hf : (b.extractLsb' 4 4).toNat = 2) (h3 : b.getLsbD 3 = false) :
    0x2#4 ++ 0b0#1 ++ b.extractLsb' 0 3 = b := by
  revert b; decide

/-- No byte but a selector's own carries it. -/
theorem selectorByte_of_byteSelector {b : BitVec 8} {sel : Selector} (h : byteSelector b = .ok sel) :
    selectorByte sel = b := by
  unfold byteSelector at h
  split at h
  next hf => cases h; exact byte_eq_of_format hf
  next hf => cases h; exact byte_eq_of_format hf
  next hf =>
    split at h
    next => cases h
    next h3 => cases h; exact byte_eq_of_acqIn hf (Bool.eq_false_iff.2 h3)
  next => cases h

theorem encode_of_decodeByte {b : BitVec 8} {i : Instr} (h : decodeByte b = .ok i) : encode i = [b] := by
  unfold decodeByte at h
  split at h
  next sel hb => rw [encode, encodeSelector_of_decodeSelector h, selectorByte_of_byteSelector hb]
  next => cases h

theorem decode_encode (i : Instr) (rest : List (BitVec 8)) : decode (encode i ++ rest) = .ok (i, rest) := by
  have hbyte : decodeByte (selectorByte (encodeSelector i)) = .ok i := by
    rw [decodeByte_selectorByte, decodeSelector_encodeSelector]
  show decode (selectorByte (encodeSelector i) :: rest) = .ok (i, rest)
  rw [decode, hbyte]

/-! ### The opcode table -/

/-- The rows split the selectors: a row is matched by the selectors of the operations it belongs to, and by no
other. -/
theorem rowMatches_opcodeRow_iff (sel : Selector) (j : Instr) :
    rowMatches (opcodeRow j) sel = true ↔ (decodeSelector sel).map opcodeRow = .ok (opcodeRow j) := by
  cases sel with
  | acqIn w => cases j <;> decide +revert
  | asel w => cases j <;> decide +revert
  | sel w => cases j <;> decide +revert

end Sys2Proof

namespace Sys2Proof.Machine

/-- The operation of a step is the one its selector decodes to: RST = 1 selects RESET, and no other ACQ_IN word
occurs (R193). -/
theorem decodeSelector_selectorOf (r : Regs) (e : Input) : decodeSelector (selectorOf r e) = .ok (select r e) := by
  cases e with
  | read sel => rfl
  | acq rst rdy sdata =>
    cases rst with
    | false => rfl
    | true => cases rdy <;> cases sdata <;> rfl

theorem State.present_of_cons (s : State) (e : Input) (rest : List Input) (h : s.inputs = e :: rest) :
    s.present = { s with pins := s.pins.present e, inputs := rest } := by
  simp [State.present, State.nextInput, h]

theorem State.present_of_nil (s : State) (h : s.inputs = []) :
    s.present = { s with pins := s.pins.present (freeInput s.draws), draws := s.draws + 1 } := by
  simp [State.present, State.nextInput, h]

theorem State.nextInput_of_nil (s : State) (h : s.inputs = []) : s.nextInput = freeInput s.draws := by
  simp [State.nextInput, h]

end Sys2Proof.Machine

open Sys2Proof Sys2Proof.Machine

/-- Settles O2: selectors round-trip both ways, and so do the bytes that carry them. -/
theorem decodeInvertsEncode : Obligations.DecodeInvertsEncode :=
  ⟨fun i rest _ => ⟨decodeSelector_encodeSelector i, decode_encode i rest⟩, fun _ _ => encode_of_decodeByte⟩

/-- Settles O3: a selector matches the rows of what it decodes to, which is one row or none. -/
theorem everySelectorMatchesExactlyOneRow : Obligations.EverySelectorMatchesExactlyOneRow := by
  refine ⟨fun sel i j h => ?selects, fun sel e j h => ?selectsNone⟩
  case selects => rw [rowMatches_opcodeRow_iff, h, Except.map, Except.ok.injEq, eq_comm]
  case selectsNone => rw [Bool.eq_false_iff, ne_eq, rowMatches_opcodeRow_iff, h]; exact nofun

/-- Settles O1: each word decodes by computation. -/
theorem tableWordsSelectTheirOperations : Obligations.TableWordsSelectTheirOperations :=
  ⟨rfl, rfl, rfl, rfl, rfl, rfl, rfl, rfl⟩

/-- Settles O4: the selector decodes to the operation that `step` runs, and the input is the first scheduled one, or a
draw. -/
theorem stepRunsTheSelectedOperation : Obligations.StepRunsTheSelectedOperation := by
  refine ⟨fun r rdy sd => ⟨rfl, rfl⟩, fun r sel => rfl, fun s i h => ?runs, fun s => ?total,
    fun s e rest h => ⟨s.nextInput_of_cons e rest h, s.present_of_cons e rest h⟩,
    fun s h => ⟨s.nextInput_of_nil h, s.present_of_nil h⟩⟩
  case runs =>
    rw [decodeSelector_selectorOf, Except.ok.injEq] at h
    rw [step, State.fetch, h]
  case total => exact ⟨_, decodeSelector_selectorOf s.regs s.nextInput⟩

end

section
/-! SUPPORT. Which bits of a frame reach which field of its decoding (spec/30_encoding.md R71,
spec/41_decode.md R136). -/

namespace Sys2Proof.Machine

/-! ### The 26 significant bits (R71) -/

theorem frameMask_getLsbD (k : Nat) : Config.frameMask.getLsbD k = decide (k < 26) := by
  have hbit : (0x03FFFFFF : Nat).testBit k = decide (k < 26) := Nat.testBit_two_pow_sub_one 26 k
  rw [Config.frameMask, BitVec.getLsbD_ofNat, hbit]
  by_cases hk : k < 26
  · simp [hk, Nat.lt_trans hk (by decide : 26 < 32)]
  · simp [hk]

theorem extRaw_getLsbD (f : Frame) (k : Nat) : (extRaw f).getLsbD k = (f.getLsbD k && decide (k < 26)) := by
  rw [extRaw, BitVec.getLsbD_and, frameMask_getLsbD]

/-- A field within the 26 significant bits depends on those alone. -/
theorem extractLsb'_congr_of_low {f g : Frame} (h : ∀ k < 26, f.getLsbD k = g.getLsbD k) {pos n : Nat}
    (hn : pos + n ≤ 26) : f.extractLsb' pos n = g.extractLsb' pos n := by
  apply BitVec.eq_of_getLsbD_eq
  intro i hi
  rw [BitVec.getLsbD_extractLsb', BitVec.getLsbD_extractLsb', h (pos + i) (by omega)]

theorem extRaw_congr_of_low {f g : Frame} (h : ∀ k < 26, f.getLsbD k = g.getLsbD k) : extRaw f = extRaw g := by
  apply BitVec.eq_of_getLsbD_eq
  intro k _
  rw [extRaw_getLsbD, extRaw_getLsbD]
  by_cases hk : k < 26
  · rw [h k hk]
  · simp [hk]

theorem decodeFrame_congr_of_low {f g : Frame} (h : ∀ k < 26, f.getLsbD k = g.getLsbD k) :
    decodeFrame f = decodeFrame g := by
  have hraw : extRaw f = extRaw g := extRaw_congr_of_low h
  have hmode : extMode f = extMode g := extractLsb'_congr_of_low h (by decide)
  have hrange : extRange f = extRange g := extractLsb'_congr_of_low h (by decide)
  have hpol : extPol f = extPol g := extractLsb'_congr_of_low h (by decide)
  have hdraw : extDraw f = extDraw g := extractLsb'_congr_of_low h (by decide)
  rw [decodeFrame, hraw, hmode, hrange, hpol, hdraw, ← decodeFrame]

/-- RAW decodes to the reading it belongs to (R32). -/
theorem decodeFrame_extRaw (f : Frame) : decodeFrame (extRaw f) = decodeFrame f :=
  decodeFrame_congr_of_low fun k hk => by simp [extRaw_getLsbD, hk]

theorem extRaw_extractLsb'_high (f : Frame) : (extRaw f).extractLsb' 26 6 = 0#6 := by
  apply BitVec.eq_of_getLsbD_eq
  intro i _
  simp [extRaw_getLsbD]

/-! ### One flipped bit (R136) -/

theorem oneBit_getLsbD {k : Nat} (hk : k < 32) (j : Nat) : (1#32 <<< k).getLsbD j = decide (k = j) := by
  rw [← BitVec.twoPow_eq, BitVec.getLsbD_twoPow, decide_eq_true hk, Bool.true_and]

theorem flipBit_getLsbD (f : Frame) {k : Nat} (hk : k < 32) (j : Nat) :
    (f ^^^ (1#32 <<< k)).getLsbD j = (f.getLsbD j ^^ decide (k = j)) := by
  rw [BitVec.getLsbD_xor, oneBit_getLsbD hk]

theorem extractLsb'_flipBit_of_outside (f : Frame) {k pos n : Nat} (hk : k < 32) (hout : k < pos ∨ pos + n ≤ k) :
    (f ^^^ (1#32 <<< k)).extractLsb' pos n = f.extractLsb' pos n := by
  apply BitVec.eq_of_getLsbD_eq
  intro i hi
  have hne : k ≠ pos + i := by omega
  simp [flipBit_getLsbD f hk, hne]

theorem extractLsb'_flipBit_ne (f : Frame) {k pos n : Nat} (hk : k < 32) (hlo : pos ≤ k) (hhi : k < pos + n) :
    (f ^^^ (1#32 <<< k)).extractLsb' pos n ≠ f.extractLsb' pos n := by
  intro h
  have hbit := congrArg (·.getLsbD (k - pos)) h
  have hlt : k - pos < n := by omega
  simp [flipBit_getLsbD f hk, hlt, Nat.add_sub_cancel' hlo] at hbit

theorem extRaw_flipBit_of_low (f : Frame) {k : Nat} (hk : k < 26) :
    extRaw (f ^^^ (1#32 <<< k)) = extRaw f ^^^ (1#32 <<< k) := by
  have hk32 : k < 32 := by omega
  apply BitVec.eq_of_getLsbD_eq
  intro j _
  rw [extRaw_getLsbD, flipBit_getLsbD f hk32, flipBit_getLsbD _ hk32, extRaw_getLsbD]
  by_cases hj : j < 26
  · simp [hj]
  · have hne : k ≠ j := by omega
    simp [hj, hne]

theorem decodeFrame_flipBit_of_discarded (f : Frame) {k : Nat} (hk : k < 32) (hhi : 26 ≤ k) :
    decodeFrame (f ^^^ (1#32 <<< k)) = decodeFrame f :=
  decodeFrame_congr_of_low fun j hj => by
    have hne : k ≠ j := by omega
    simp [flipBit_getLsbD f hk, hne]

end Sys2Proof.Machine

open Sys2Proof.Machine

/-- Settles O42: a decoding depends on the 26 low bits alone, which the mask keeps. -/
theorem discardedBitsNeverMatter : Obligations.DiscardedBitsNeverMatter := fun f _ =>
  ⟨(decodeFrame_extRaw f).symm, extRaw_extractLsb'_high f, decodeFrame_congr_of_low⟩

/-- Settles O43: a flipped bit flips RAW at its place and changes the field that spans it; every other field lies
wholly to one side of it. -/
theorem frameBitsFeedDisjointFields : Obligations.FrameBitsFeedDisjointFields := by
  intro f k hk
  have mode (h : k < 22 ∨ 25 ≤ k) : extMode (f ^^^ (1#32 <<< k)) = extMode f := extractLsb'_flipBit_of_outside f hk h
  have pol (h : k < 20 ∨ 22 ≤ k) : extPol (f ^^^ (1#32 <<< k)) = extPol f := extractLsb'_flipBit_of_outside f hk h
  have range (h : k < 17 ∨ 20 ≤ k) : extRange (f ^^^ (1#32 <<< k)) = extRange f :=
    extractLsb'_flipBit_of_outside f hk h
  have draw (h : 17 ≤ k) : extDraw (f ^^^ (1#32 <<< k)) = extDraw f :=
    extractLsb'_flipBit_of_outside f hk (.inr (by simpa using h))
  refine ⟨decodeFrame_flipBit_of_discarded f hk, extRaw_flipBit_of_low f, fun h => ?bit25,
    fun hlo hhi => ⟨?modeChanges, ?modeOnly⟩, fun hlo hhi => ⟨?polChanges, ?polOnly⟩,
    fun hlo hhi => ⟨?rangeChanges, ?rangeOnly⟩, fun h => ⟨?drawChanges, ?drawOnly⟩⟩
  case bit25 =>
    simp only [decodeFrame, mode (by omega), pol (by omega), range (by omega), draw (by omega)]
  case modeChanges => exact extractLsb'_flipBit_ne (pos := 22) (n := 3) f hk hlo (by omega)
  case modeOnly => simp only [decodeFrame, pol (by omega), range (by omega), draw (by omega)]
  case polChanges => exact extractLsb'_flipBit_ne (pos := 20) (n := 2) f hk hlo (by omega)
  case polOnly => simp only [decodeFrame, mode (by omega), range (by omega), draw (by omega)]
  case rangeChanges => exact extractLsb'_flipBit_ne (pos := 17) (n := 3) f hk hlo (by omega)
  case rangeOnly => simp only [decodeFrame, mode (by omega), pol (by omega), draw (by omega)]
  case drawChanges => exact extractLsb'_flipBit_ne f hk (Nat.zero_le k) (by omega)
  case drawOnly => simp only [decodeFrame, mode (by omega), pol (by omega), range (by omega)]

end

section
/-! SUPPORT. What the selected operation does to the latches and to SLOT (spec/40_acquisition.md R113, R114), and the
invariant of a run (spec/10_state.md R23, R32). -/

namespace Sys2Proof.Machine

/-! ### The registers an ACQ step writes -/

/-- Only the two clock operations write CLK_Q (R106, R107, R113). -/
theorem acqRegs_clkQ {r r' : Regs} {rdy sdata : Level} (h : acqRegs r rdy sdata = some r') :
    r'.clkQ = if r.phase = .clkLo then false else if r.phase = .clkHi then true else r.clkQ := by
  cases hp : r.phase <;> simp only [acqRegs, hp, Option.some.injEq, reduceCtorEq] at h <;> subst h
  case idle => split <;> rfl
  all_goals rfl

/-- Only ACQ_FINISH writes SLOT and LED_Q (R109, R114). -/
theorem acqRegs_published {r r' : Regs} {rdy sdata : Level} (h : acqRegs r rdy sdata = some r') :
    r'.slot = (if r.phase = .finish then decodeFrame r.acc else r.slot)
    ∧ r'.ledQ = (if r.phase = .finish then !r.ledQ else r.ledQ) := by
  cases hp : r.phase <;> simp only [acqRegs, hp, Option.some.injEq, reduceCtorEq] at h <;> subst h
  case idle => split <;> exact ⟨rfl, rfl⟩
  all_goals exact ⟨rfl, rfl⟩

/-! ### The sample counter (R23, R108) -/

theorem cnt_add_one_toNat {c : BitVec 6} (h : c.toNat < 63) : (c + 1#6).toNat = c.toNat + 1 := by
  rw [BitVec.toNat_add, BitVec.toNat_ofNat]; omega

theorem cnt_add_one_eq_framePulses_iff (c : BitVec 6) : c + 1#6 = 32#6 ↔ c.toNat + 1 = 32 := by
  bv_omega

/-! ### The invariant -/

/-- An ACQ step takes control registers that agree with PHASE to such again (R104 to R109). -/
theorem acqRegs_controlOk {r r' : Regs} {rdy sdata : Level} (hok : r.controlOk = true)
    (h : acqRegs r rdy sdata = some r') : r'.controlOk = true := by
  cases hp : r.phase <;> simp only [acqRegs, hp, Option.some.injEq, reduceCtorEq] at h <;> subst h
    <;> simp only [Regs.controlOk, hp] at hok
  case idle => split <;> simp_all [Regs.controlOk]
  case sample =>
    have hlt : r.cnt.toNat < 32 := by simp_all
    by_cases hlast : r.cnt.toNat + 1 = 32
    · simp_all [Regs.controlOk, cnt_add_one_eq_framePulses_iff]
    · have hmore : (r.cnt + 1#6).toNat < 32 := by rw [cnt_add_one_toNat (by omega)]; omega
      simp_all [Regs.controlOk, cnt_add_one_eq_framePulses_iff]
  all_goals simp_all [Regs.controlOk]

/-- A reading that some frame decodes to is the decoding of its own RAW, and conversely (R32). -/
theorem slotConsistent_iff (r : Regs) : r.slotConsistent = true ↔ ∃ f, r.slot = decodeFrame f := by
  constructor
  · intro h
    exact ⟨_, slot_eq_of_consistent h⟩
  · rintro ⟨f, hf⟩
    rw [Regs.slotConsistent, decide_eq_true_iff, hf]
    exact (decodeFrame_extRaw f).symm

theorem controlOk_afterReset (acc : BitVec 32) : (Regs.afterReset acc).controlOk = true := rfl

theorem step_keeps_controlOk {s t : State} (hok : s.regs.controlOk = true) (h : step s = .next t) :
    t.regs.controlOk = true := by
  rcases step_next_cases h with ⟨_, _, acc, _, hreset, _, _⟩ | ⟨_, _, _, _, hr, rfl⟩ | ⟨_, _, _, _, rfl⟩
  · rw [hreset]; exact controlOk_afterReset acc
  · exact acqRegs_controlOk hok hr
  · exact hok

/-! ### The writers of SLOT and LED_Q -/

/-- A SEL code selects only operations of the read port (R79). -/
theorem decodeSel_ne_of_encodeSelector {i : Instr} (hi : ∀ w, encodeSelector i ≠ .sel w) (sel : BitVec 4) :
    decodeSel sel ≠ i := by
  rintro rfl
  exact hi sel (encodeSelector_decodeSel sel)

theorem acqOperation_ne_reset (p : Phase) (rise rdy sdata : Level) : acqOperation p rise ≠ .reset rdy sdata := by
  cases p <;> cases rise <;> nofun

theorem acqOperation_ne_acqFinish {p : Phase} (hp : p ≠ .finish) (rise r : Level) :
    acqOperation p rise ≠ .acqFinish r := by
  cases p
  case finish => exact absurd rfl hp
  all_goals cases rise <;> nofun

/-- RESET and ACQ_FINISH are the only operations that write SLOT or LED_Q (R57, R114, R198). -/
theorem step_published {s t : State} (h : step s = .next t) :
    (∃ rdy sd, s.fetch = .reset rdy sd ∧ t.regs.slot = decodeFrame 0#32 ∧ t.regs.ledQ = false)
    ∨ (∃ r, s.fetch = .acqFinish r ∧ t.regs.slot = decodeFrame s.regs.acc ∧ t.regs.ledQ = !s.regs.ledQ)
    ∨ ((∀ rdy sd, s.fetch ≠ .reset rdy sd) ∧ (∀ r, s.fetch ≠ .acqFinish r)
      ∧ t.regs.slot = s.regs.slot ∧ t.regs.ledQ = s.regs.ledQ) := by
  rcases step_next_cases h with ⟨rdy, sd, _, hi, hreset, _, _⟩ | ⟨rdy, _, _, hi, hr, rfl⟩ | ⟨sel, _, hi, _, rfl⟩
  · exact .inl ⟨rdy, sd, by rw [State.fetch, hi, select_reset], by rw [hreset]; rfl, by rw [hreset]; rfl⟩
  · obtain ⟨hslot, hled⟩ := acqRegs_published hr
    have hfetch : s.fetch = acqOperation s.regs.phase (riseOf s.regs rdy) := fetch_of_acq hi
    by_cases hp : s.regs.phase = .finish
    · rw [if_pos hp] at hslot hled
      exact .inr (.inl ⟨_, by rw [hfetch, hp]; rfl, hslot, hled⟩)
    · rw [if_neg hp] at hslot hled
      refine .inr (.inr ⟨fun rdy sd => ?_, fun r => ?_, hslot, hled⟩) <;> rw [hfetch]
      · exact acqOperation_ne_reset _ _ rdy sd
      · exact acqOperation_ne_acqFinish hp _ r
  · have hfetch : s.fetch = decodeSel sel := by rw [State.fetch, hi, select_read]
    refine .inr (.inr ⟨fun rdy sd => ?_, fun r => ?_, rfl, rfl⟩) <;> rw [hfetch]
    · exact decodeSel_ne_of_encodeSelector (by simp [encodeSelector]) sel
    · exact decodeSel_ne_of_encodeSelector (by simp [encodeSelector]) sel

theorem step_keeps_slot_decoded {s t : State} (hs : ∃ f, s.regs.slot = decodeFrame f) (h : step s = .next t) :
    ∃ f, t.regs.slot = decodeFrame f := by
  rcases step_published h with ⟨_, _, _, hslot, _⟩ | ⟨_, _, hslot, _⟩ | ⟨_, _, hslot, _⟩
  · exact ⟨_, hslot⟩
  · exact ⟨_, hslot⟩
  · rwa [hslot]

theorem sound_reset : Sound State.reset := by decide

theorem step_keeps_sound {s t : State} (hs : Sound s) (h : step s = .next t) : Sound t := by
  obtain ⟨hcontrol, hslot⟩ := hs
  exact ⟨step_keeps_controlOk hcontrol h,
    (slotConsistent_iff t.regs).2 (step_keeps_slot_decoded ((slotConsistent_iff s.regs).1 hslot) h)⟩

/-- The fields of a decoding are slices of its RAW (R32). -/
theorem decodeFrame_field_eq_raw_slice (f : Frame) {pos n : Nat} (hn : pos + n ≤ 26) :
    f.extractLsb' pos n = (extRaw f).extractLsb' pos n :=
  extractLsb'_congr_of_low (fun k hk => by simp [extRaw_getLsbD, hk]) hn

/-! ### The strobe latches -/

/-- LOAD_Q is kept but by its two operations and RESET (R113). -/
theorem step_outLoad_cases {s t : State} (h : step s = .next t) :
    t.outLoad = s.outLoad ∨ (∃ r, s.fetch = .acqLoadLo r ∨ s.fetch = .acqLoadHi r)
      ∨ ∃ rdy sd, s.fetch = .reset rdy sd := by
  rcases step_next_cases h with ⟨rdy, sd, _, hi, _, _, _⟩ | ⟨rdy, _, _, hi, hr, rfl⟩ | ⟨_, _, _, _, rfl⟩
  · exact .inr (.inr ⟨rdy, sd, by rw [State.fetch, hi, select_reset]⟩)
  · have hfetch : s.fetch = acqOperation s.regs.phase (riseOf s.regs rdy) := fetch_of_acq hi
    by_cases hlo : s.regs.phase = .loadLo
    · exact .inr (.inl ⟨_, .inl (by rw [hfetch, hlo]; rfl)⟩)
    by_cases hhi : s.regs.phase = .loadHi
    · exact .inr (.inl ⟨_, .inr (by rw [hfetch, hhi]; rfl)⟩)
    exact .inl ((acqRegs_loadQ hr).trans (by rw [if_neg hlo, if_neg hhi]; rfl))
  · exact .inl rfl

/-- CLK_Q goes low in ACQ_CLK_LO only, and high in ACQ_CLK_HI and RESET only (R106, R107, R113). -/
theorem step_outSclk_cases {s t : State} (h : step s = .next t) :
    t.outSclk = s.outSclk ∨ (∃ r, s.fetch = .acqClkLo r)
      ∨ t.outSclk = true ∧ ((∃ r, s.fetch = .acqClkHi r) ∨ ∃ rdy sd, s.fetch = .reset rdy sd) := by
  rcases step_next_cases h with ⟨rdy, sd, _, hi, hreset, _, _⟩ | ⟨rdy, _, _, hi, hr, rfl⟩ | ⟨_, _, _, _, rfl⟩
  · exact .inr (.inr ⟨by rw [State.outSclk, hreset]; rfl, .inr ⟨rdy, sd, by rw [State.fetch, hi, select_reset]⟩⟩)
  · have hfetch : s.fetch = acqOperation s.regs.phase (riseOf s.regs rdy) := fetch_of_acq hi
    by_cases hlo : s.regs.phase = .clkLo
    · exact .inr (.inl ⟨_, by rw [hfetch, hlo]; rfl⟩)
    by_cases hhi : s.regs.phase = .clkHi
    · have hhigh := (acqRegs_clkQ hr).trans (by rw [if_neg hlo, if_pos hhi])
      exact .inr (.inr ⟨hhigh, .inl ⟨_, by rw [hfetch, hhi]; rfl⟩⟩)
    exact .inl ((acqRegs_clkQ hr).trans (by rw [if_neg hlo, if_neg hhi]; rfl))
  · exact .inl rfl

theorem step_outSclk_stays_high {s t : State} (h : step s = .next t) (hn : ∀ r, s.fetch ≠ .acqClkLo r)
    (hs : s.outSclk = true) : t.outSclk = true := by
  rcases step_outSclk_cases h with hkept | ⟨r, hlo⟩ | ⟨hhigh, _⟩
  · rwa [hkept]
  · exact absurd hlo (hn r)
  · exact hhigh

/-- Outside the two load and the two clock phases LOAD and SCLK are high (R113). -/
theorem strobes_high_of_controlOk {r : Regs} (hok : r.controlOk = true) (hp : r.phase = .idle ∨ r.phase = .sample) :
    r.loadQ = true ∧ r.clkQ = true := by
  rcases hp with hp | hp <;> simp only [Regs.controlOk, hp, Bool.and_eq_true] at hok
  all_goals
    obtain ⟨⟨_, hload⟩, hclk⟩ := hok
    exact ⟨hload, hclk⟩

theorem exec_acqClkLo (r : Level) (s : State) :
    exec (.acqClkLo r) s =
      .next { s with regs := { s.regs with clkQ := false, phase := .clkHi, rdyPrev := s.pins.rdy } } := rfl

theorem exec_acqClkHi (r : Level) (s : State) :
    exec (.acqClkHi r) s =
      .next { s with regs := { s.regs with clkQ := true, phase := .sample, rdyPrev := s.pins.rdy } } := rfl

end Sys2Proof.Machine

open Sys2Proof.Machine

/-- Settles O23: the four control registers by value, and SLOT is `DECODE(0)`. -/
theorem invariantHoldsAtReset : Obligations.InvariantHoldsAtReset := sound_reset

/-- Settles O24: the control registers by the kind of step; SLOT, decoded from some frame before, is kept or decoded
anew. -/
theorem stepKeepsTheInvariant : Obligations.StepKeepsTheInvariant := fun _ _ => step_keeps_sound

/-- Settles O26: reset holds `DECODE(0)`, each step keeps or decodes, and a slice below bit 26 is the same in the frame
and in its RAW. -/
theorem slotIsTheDecodingOfOneFrame : Obligations.SlotIsTheDecodingOfOneFrame := by
  refine ⟨⟨_, slot_eq_of_consistent sound_reset.2⟩, fun s t => step_keeps_slot_decoded, ?slices⟩
  case slices =>
    rintro _ f rfl
    refine ⟨decodeFrame_field_eq_raw_slice f (by decide), decodeFrame_field_eq_raw_slice f (by decide),
      decodeFrame_field_eq_raw_slice f (by decide), decodeFrame_field_eq_raw_slice f (by decide), rfl, ?_⟩
    exact (extRaw_toNat f).trans_lt (Nat.mod_lt _ (Nat.two_pow_pos 26))

/-- Settles O27: the three cases of `step_published`. -/
theorem onlyFinishAndResetWriteTheSlot : Obligations.OnlyFinishAndResetWriteTheSlot := by
  intro s t h
  rcases step_published h with ⟨rdy, sd, hf, hslot, _⟩ | ⟨r, hf, hslot, _⟩ | ⟨hreset, hfinish, hslot, _⟩
  · exact .inl ⟨rdy, sd, hf, hslot⟩
  · exact .inr (.inl ⟨r, hf, hslot⟩)
  · exact .inr (.inr ⟨hreset, hfinish, hslot⟩)

/-- Settles O28: with RESET left out, a changed latch leaves only the cases of its own operations; the IDLE levels are
part of the invariant. -/
theorem latchesChangeOnlyInTheirOperations : Obligations.LatchesChangeOnlyInTheirOperations := by
  refine ⟨fun s t h hr => ⟨fun hne => ?load, fun hne => ?sclk, fun hne => ?led⟩,
    fun s hs hp => strobes_high_of_controlOk hs.1 (.inl hp)⟩
  case load =>
    rcases step_outLoad_cases h with hkept | hown | ⟨rdy, sd, hreset⟩
    · exact absurd hkept hne
    · exact hown
    · exact absurd hreset (hr rdy sd)
  case sclk =>
    rcases step_outSclk_cases h with hkept | ⟨r, hlo⟩ | ⟨_, ⟨r, hhi⟩ | ⟨rdy, sd, hreset⟩⟩
    · exact absurd hkept hne
    · exact ⟨r, .inl hlo⟩
    · exact ⟨r, .inr hhi⟩
    · exact absurd hreset (hr rdy sd)
  case led =>
    rcases step_published h with ⟨rdy, sd, hreset, _⟩ | ⟨r, hfinish, _⟩ | ⟨_, _, _, hkept⟩
    · exact absurd hreset (hr rdy sd)
    · exact ⟨r, hfinish⟩
    · exact absurd hkept hne

/-- Settles O9: the two operations' equations, and SCLK along a step. -/
theorem clockOperationsDriveThePulse : Obligations.ClockOperationsDriveThePulse :=
  ⟨fun r s => ⟨decodeAsel_aselWord .clkLo r, exec_acqClkLo r s⟩,
   fun r s => ⟨decodeAsel_aselWord .clkHi r, exec_acqClkHi r s⟩,
   fun _ _ => step_outSclk_stays_high⟩

end

section
/-! SUPPORT. The hex renderings and the display conversion (spec/41_decode.md R137 to R140, R145), from the value of
each nibble's character. -/

namespace Sys2Proof.Machine

/-! ### `PARSE_DEC` on rendered nibbles (R138) -/

/-- A rendered nibble extends the value if it is a decimal digit, and stops the conversion otherwise. -/
theorem parseDecFrom_hexChar (v : Nat) (n : Nibble) (cs : List Char) :
    parseDecFrom v (hexChar n :: cs) = if n.toNat ≤ 9 then parseDecFrom (10 * v + n.toNat) cs else v := by
  rw [parseDecFrom, isDecimalChar_hexChar]
  by_cases hn : n.toNat ≤ 9
  · simp only [hn, decide_true, if_true, hexChar_decimal_value n hn]
  · simp only [hn, decide_false, if_false, Bool.false_eq_true]

theorem parseDecFrom_nil (v : Nat) : parseDecFrom v [] = v := rfl

/-- R139 before the word width: the leading run of decimal digits of the five nibbles. -/
theorem parseDec_hex5 (v : BitVec 17) :
    parseDec (hex5 v) =
      if 10 ≤ (displayNibble v 3).toNat then (displayNibble v 4).toNat
      else if 10 ≤ (displayNibble v 2).toNat then 10 * (displayNibble v 4).toNat + (displayNibble v 3).toNat
      else if 10 ≤ (displayNibble v 1).toNat then
        100 * (displayNibble v 4).toNat + 10 * (displayNibble v 3).toNat + (displayNibble v 2).toNat
      else if 10 ≤ (displayNibble v 0).toNat then
        1000 * (displayNibble v 4).toNat + 100 * (displayNibble v 3).toNat + 10 * (displayNibble v 2).toNat
          + (displayNibble v 1).toNat
      else 10000 * (displayNibble v 4).toNat + 1000 * (displayNibble v 3).toNat + 100 * (displayNibble v 2).toNat
        + 10 * (displayNibble v 1).toNat + (displayNibble v 0).toNat := by
  have h4 := displayNibble_four_le_one v
  simp only [parseDec, hex5, parseDecFrom_hexChar, parseDecFrom_nil]
  split_ifs <;> omega

theorem parseDec_hex5_le (v : BitVec 17) : parseDec (hex5 v) ≤ 19999 := by
  have h4 := displayNibble_four_le_one v
  rw [parseDec_hex5]
  split_ifs <;> omega

theorem parseDec_hex5_eq_max_iff (v : BitVec 17) : parseDec (hex5 v) = 19999 ↔ v = 0x19999#17 := by
  constructor
  · intro h
    have h4 := displayNibble_four_le_one v
    have hv := toNat_eq_displayNibbles v
    rw [parseDec_hex5] at h
    apply BitVec.eq_of_toNat_eq
    rw [hv]
    split_ifs at h <;> simp only [BitVec.toNat_ofNat] <;> omega
  · rintro rfl
    decide

/-- The value fits the 16 bits of DVAL (R139). -/
theorem dispConv_toNat (v : BitVec 17) : (dispConv v).toNat = parseDec (hex5 v) := by
  have hle := parseDec_hex5_le v
  show (BitVec.ofNat 16 (parseDec (hex5 v))).toNat = _
  rw [BitVec.toNat_ofNat, Nat.mod_eq_of_lt (by omega)]

theorem dispConv_le (v : BitVec 17) : (dispConv v).toNat ≤ 19999 := (dispConv_toNat v).trans_le (parseDec_hex5_le v)

/-! ### Decimal displays (R140) -/

theorem allDecimal_of_nibbles {v : BitVec 17} (h : ∀ k ≤ 4, (displayNibble v k).toNat ≤ 9) : allDecimal v = true := by
  simp [allDecimal, hex5, isDecimalChar_hexChar, h]

/-- On a decimal display the parameter `DISP_PARSE` makes no difference (R138). -/
theorem dispConvWith_of_allDecimal {v : BitVec 17} (h : allDecimal v = true) (p : Config.DispParse) :
    dispConvWith p v = dispConv v := by
  cases p with
  | prefixRun => rfl
  | opaqueFn => exact if_pos h

theorem parseDec_hex5_of_decimal {v : BitVec 17} (h : ∀ k ≤ 4, (displayNibble v k).toNat ≤ 9) :
    parseDec (hex5 v) = 10000 * (displayNibble v 4).toNat + 1000 * (displayNibble v 3).toNat
      + 100 * (displayNibble v 2).toNat + 10 * (displayNibble v 1).toNat + (displayNibble v 0).toNat := by
  have digit (k : Nat) (hk : k ≤ 4) : ¬ 10 ≤ (displayNibble v k).toNat := Nat.not_le.2 (Nat.lt_succ_of_le (h k hk))
  rw [parseDec_hex5, if_neg (digit 3 (by decide)), if_neg (digit 2 (by decide)), if_neg (digit 1 (by decide)),
    if_neg (digit 0 (by decide))]

/-! ### The renderings read back (R137, R145) -/

theorem hexValue_hex5 (v : BitVec 17) : hexValue (hex5 v) = v.toNat := by
  simp only [hexValue, hex5, List.foldl, hexChar_hex_value, toNat_eq_displayNibbles v]
  omega

theorem hexValue_hex8 (raw : BitVec 32) : hexValue (hex8 raw) = raw.toNat := by
  have := raw.isLt
  simp only [hexValue, hex8, List.foldl, hexChar_hex_value, BitVec.extractLsb'_toNat, Nat.shiftRight_eq_div_pow]
  omega

theorem hexChar_of_le_one (n : Nibble) (h : n.toNat ≤ 1) : hexChar n = '0' ∨ hexChar n = '1' := by
  revert n; decide

theorem hexChar_mem_of_le_three (n : Nibble) (h : n.toNat ≤ 3) : hexChar n ∈ ['0', '1', '2', '3'] := by
  revert n; decide

end Sys2Proof.Machine

open Sys2Proof.Machine

/-- Settles O45: the closed form of the conversion, its bound by the nibbles, and the nibbles that reach the bound. -/
theorem displayConversionHasItsClosedForm : Obligations.DisplayConversionHasItsClosedForm := by
  intro v
  refine ⟨displayNibble_four_le_one v, (dispConv_toNat v).trans (parseDec_hex5 v), dispConv_le v, ?_⟩
  rw [dispConv_toNat]
  exact parseDec_hex5_eq_max_iff v

/-- Settles O44: DVAL holds the parsed value; on decimal nibbles no branch of the closed form stops early. -/
theorem decimalDisplayConvertsAsBcd : Obligations.DecimalDisplayConvertsAsBcd := by
  refine ⟨dispConv_toNat, fun p v h => ?decimal, rfl⟩
  case decimal =>
    rw [dispConvWith_of_allDecimal (allDecimal_of_nibbles h), dispConv_toNat, parseDec_hex5_of_decimal h]

/-- Settles O46: each character reads back as its nibble, and the nibbles are the value's hex digits. -/
theorem hexRenderingsReadBack : Obligations.HexRenderingsReadBack := by
  refine ⟨fun v => ⟨rfl, by simp [hex5, isHexChar_hexChar], hexValue_hex5 v, ?firstOfFive⟩,
    fun raw => ⟨rfl, by simp [hex8, isHexChar_hexChar], hexValue_hex8 raw, fun hraw => ?firstOfEight⟩⟩
  case firstOfFive => simpa [hex5] using hexChar_of_le_one _ (displayNibble_four_le_one v)
  case firstOfEight =>
    refine ⟨_, hexChar_mem_of_le_three _ ?_, rfl⟩
    rw [BitVec.extractLsb'_toNat, Nat.shiftRight_eq_div_pow]
    omega

end

section
/-! SUPPORT. The answers of the read port: the layout of the snapshot (spec/30_encoding.md R80), the width of each
answer (R79), and the reading the reads find (spec/42_readport.md R160, R166). -/

namespace Sys2Proof.Machine

/-! ### Fields placed in a word -/

/-- A field shifted to its place is zero everywhere else. -/
theorem extractLsb'_placed_of_disjoint {n : Nat} (x : BitVec n) {p pos len : Nat}
    (h : pos + len ≤ p ∨ p + n ≤ pos) : (x.setWidth 64 <<< p).extractLsb' pos len = 0#len := by
  apply BitVec.eq_of_getLsbD_eq
  intro i hi
  rw [BitVec.getLsbD_extractLsb', BitVec.getLsbD_shiftLeft, BitVec.getLsbD_setWidth, BitVec.getLsbD_zero]
  rcases h with hbelow | habove
  · have hlt : pos + i < p := by omega
    simp [hlt]
  · have hhigh : n ≤ pos + i - p := by omega
    simp [BitVec.getLsbD_of_ge x _ hhigh]

theorem extractLsb'_placed_own {n : Nat} (x : BitVec n) {p : Nat} (h : p + n ≤ 64) :
    (x.setWidth 64 <<< p).extractLsb' p n = x := by
  apply BitVec.eq_of_getLsbD_eq
  intro i hi
  have h64 : p + i < 64 := by omega
  simp [hi, h64]

/-- A field at bit 0 is zero above its width. -/
theorem extractLsb'_setWidth_of_above {n : Nat} (x : BitVec n) {pos len : Nat} (h : n ≤ pos) :
    (x.setWidth 64).extractLsb' pos len = 0#len := by
  rw [← BitVec.shiftLeft_zero (x.setWidth 64)]
  exact extractLsb'_placed_of_disjoint x (.inr (by omega))

/-! ### The slices of the snapshot (R80) -/

/-- The slices of the word are those of its four fields at their places. -/
theorem snapWord_extract (r : Reading) (pos len : Nat) :
    (snapWord r).extractLsb' pos len =
      (r.raw.setWidth 64).extractLsb' pos len
      ||| (r.dval.setWidth 64 <<< 32).extractLsb' pos len
      ||| ((mclsCode (mcls r.mode)).setWidth 64 <<< 48).extractLsb' pos len
      ||| ((signCode (signOf r.mode r.pol)).setWidth 64 <<< 50).extractLsb' pos len := by
  simp only [snapWord, BitVec.extractLsb'_or]

theorem snapWord_extract_raw (r : Reading) {pos len : Nat} (h : pos + len ≤ 32) :
    (snapWord r).extractLsb' pos len = r.raw.extractLsb' pos len := by
  simp (disch := omega) only [snapWord_extract, BitVec.extractLsb'_setWidth_of_le, extractLsb'_placed_of_disjoint,
    BitVec.or_zero]

theorem snapWord_extract_dval (r : Reading) : (snapWord r).extractLsb' 32 16 = r.dval := by
  simp (disch := decide) only [snapWord_extract, extractLsb'_setWidth_of_above, extractLsb'_placed_own,
    extractLsb'_placed_of_disjoint, BitVec.or_zero, BitVec.zero_or]

theorem snapWord_extract_mcls (r : Reading) : (snapWord r).extractLsb' 48 2 = mclsCode (mcls r.mode) := by
  simp (disch := decide) only [snapWord_extract, extractLsb'_setWidth_of_above, extractLsb'_placed_own,
    extractLsb'_placed_of_disjoint, BitVec.or_zero, BitVec.zero_or]

theorem snapWord_extract_sign (r : Reading) : (snapWord r).extractLsb' 50 2 = signCode (signOf r.mode r.pol) := by
  simp (disch := decide) only [snapWord_extract, extractLsb'_setWidth_of_above, extractLsb'_placed_own,
    extractLsb'_placed_of_disjoint, BitVec.zero_or]

theorem snapWord_extract_top (r : Reading) : (snapWord r).extractLsb' 52 12 = 0#12 := by
  simp (disch := decide) only [snapWord_extract, extractLsb'_setWidth_of_above, extractLsb'_placed_of_disjoint,
    BitVec.or_zero]

theorem snapWord_lt (r : Reading) : (snapWord r).toNat < 2 ^ 52 := by
  have htop := congrArg BitVec.toNat (snapWord_extract_top r)
  rw [BitVec.extractLsb'_toNat, Nat.shiftRight_eq_div_pow] at htop
  have hword := (snapWord r).isLt
  simp only [BitVec.toNat_ofNat] at htop
  omega

/-! ### The fields of a consistent reading -/

theorem dval_le_of_consistent {r : Regs} (h : r.slotConsistent = true) : r.slot.dval.toNat ≤ 19999 := by
  have hdval : r.slot.dval = dispConv (extDraw r.slot.raw) := congrArg Reading.dval (slot_eq_of_consistent h)
  rw [hdval]
  exact dispConv_le _

/-! ### The answers of the selects -/

theorem exists_rdAnswer {sel : BitVec 4} (h : sel.toNat ≤ 8) (r : Reading) : ∃ v, rdAnswer sel r = some v := by
  rw [← Option.isSome_iff_exists, rdAnswer_isSome, decide_eq_true h]

/-- Zero-extension to 64 bits keeps a value below the power of its own width. -/
theorem setWidth_toNat_lt {n : Nat} (x : BitVec n) : (x.setWidth 64).toNat < 2 ^ n := by
  rw [BitVec.toNat_setWidth]
  exact (Nat.mod_le _ _).trans_lt x.isLt

/-- The width of a select, from its number. -/
theorem selectWidth_of_toNat {sel : BitVec 4} {n : Nat} (h : sel.toNat = n) :
    selectWidth sel = selectWidth (BitVec.ofNat 4 n) := by
  rw [← h, BitVec.ofNat_toNat, BitVec.setWidth_eq]

/-- R53: an answer fits the width of its select; RAW's width rests on the mask, so on a consistent reading. -/
theorem rdAnswer_lt {sel : BitVec 4} {r : Regs} {v : RdWord} (hc : r.slotConsistent = true)
    (hv : rdAnswer sel r.slot = some v) : v.toNat < 2 ^ selectWidth sel := by
  unfold rdAnswer at hv
  split at hv <;> cases hv
  next hsel => rw [selectWidth_of_toNat hsel]; exact (snapWord r.slot).isLt
  next hsel => rw [selectWidth_of_toNat hsel]; exact setWidth_toNat_lt r.slot.mode
  next hsel => rw [selectWidth_of_toNat hsel]; exact setWidth_toNat_lt r.slot.range
  next hsel => rw [selectWidth_of_toNat hsel]; exact setWidth_toNat_lt r.slot.pol
  next hsel => rw [selectWidth_of_toNat hsel]; exact setWidth_toNat_lt r.slot.draw
  next hsel => rw [selectWidth_of_toNat hsel]; exact setWidth_toNat_lt r.slot.dval
  next hsel =>
    rw [selectWidth_of_toNat hsel, BitVec.toNat_setWidth]
    exact (Nat.mod_le _ _).trans_lt (raw_lt_of_consistent hc)
  next hsel => rw [selectWidth_of_toNat hsel]; exact setWidth_toNat_lt (mclsCode (mcls r.slot.mode))
  next hsel => rw [selectWidth_of_toNat hsel]; exact setWidth_toNat_lt (signCode (signOf r.slot.mode r.slot.pol))

theorem decodeFrame_zero : decodeFrame 0#32 = ⟨0#32, 0#3, 0#3, 0#2, 0#17, 0#16⟩ := rfl

theorem rdAnswer_decodeFrame_zero (sel : BitVec 4) (h : sel.toNat ≤ 8) :
    rdAnswer sel (decodeFrame 0#32) = some 0#64 := by
  revert sel; decide

theorem exec_rdSnap (s : State) : exec .rdSnap s = .next { s with rdData := snapWord s.regs.slot } :=
  exec_of_rdAnswer s 0x0#4 rfl rfl

theorem exec_rdDval (s : State) :
    exec .rdDval s = .next { s with rdData := BitVec.ofNat 64 s.regs.slot.dval.toNat } :=
  exec_of_rdAnswer s 0x5#4 rfl (congrArg some (setWidth_eq_ofNat s.regs.slot.dval 64))

end Sys2Proof.Machine

open Sys2Proof Sys2Proof.Machine

/-- Settles O12: the slices of the snapshot word; on a consistent reading RAW is masked and its own fields are slices of
RAW, so of the word. -/
theorem snapshotPacksTheWholeReading : Obligations.SnapshotPacksTheWholeReading := by
  refine ⟨rfl, fun s => ⟨_, exec_rdSnap s, rfl, snapWord_extract_raw _ (by decide), fun hc => ?gap,
    snapWord_extract_dval _, snapWord_extract_mcls _, snapWord_extract_sign _, snapWord_extract_top _,
    fun hc => ?fields⟩⟩
  case gap =>
    refine (snapWord_extract_raw s.regs.slot (by decide)).trans ?_
    rw [slot_eq_of_consistent hc]
    exact extRaw_extractLsb'_high _
  case fields =>
    have hslot := slot_eq_of_consistent hc
    refine ⟨?_, ?_, ?_, ?_⟩ <;> refine (snapWord_extract_raw s.regs.slot (by decide)).trans ?_
    · exact (congrArg Reading.mode hslot).symm
    · exact (congrArg Reading.pol hslot).symm
    · exact (congrArg Reading.range hslot).symm
    · exact (congrArg Reading.draw hslot).symm

/-- Settles O14: the read's equation, and the bound of the conversion. -/
theorem displayValueReadIsAtMost19999 : Obligations.DisplayValueReadIsAtMost19999 :=
  ⟨rfl, fun s => ⟨exec_rdDval s, dval_le_of_consistent⟩⟩

/-- Settles O19: a defined select has an answer, which its width bounds; the snapshot has 12 zero bits on top. -/
theorem everyDefinedReadFitsItsWidth : Obligations.EveryDefinedReadFitsItsWidth := by
  intro s sel hc hsel
  obtain ⟨v, hv⟩ := exists_rdAnswer hsel s.regs.slot
  refine ⟨_, exec_of_rdAnswer s sel rfl hv, rfl, rdAnswer_lt hc hv, ?snapshot⟩
  case snapshot =>
    rintro rfl
    cases hv
    exact snapWord_lt s.regs.slot

/-- Settles O31: a read writes no `S`, which holds the latches; and its answer is a function of SLOT. -/
theorem readsHaveNoSideEffect : Obligations.ReadsHaveNoSideEffect := by
  refine ⟨fun s t sel hi h => ?noWrite, fun s s' sel hsel hslot => ?sameAnswer⟩
  case noWrite =>
    have hregs : t.regs = s.regs := step_regs_of_read h hi
    exact ⟨hregs, congrArg Regs.loadQ hregs, congrArg Regs.clkQ hregs, congrArg Regs.ledQ hregs⟩
  case sameAnswer =>
    obtain ⟨v, hv⟩ := exists_rdAnswer hsel s.regs.slot
    exact ⟨_, _, exec_of_rdAnswer s sel rfl hv, exec_of_rdAnswer s' sel rfl (hslot ▸ hv), rfl⟩

/-- Settles O18: RD_MCLS answers by the table of R141, mode by mode. -/
theorem domainPredicatesAgreeWithTheClassRead : Obligations.DomainPredicatesAgreeWithTheClassRead := by
  intro s
  refine ⟨_, exec_rdMcls s, ?_⟩
  dsimp only
  generalize s.regs.slot.mode = mode
  revert mode
  decide

/-- Settles O20: RESET leaves `DECODE(0)`, on which every defined select answers 0. -/
theorem resetReadingAnswersZero : Obligations.ResetReadingAnswersZero := by
  refine ⟨decodeFrame_zero, fun s t rdy sd sel h hsel => ?_⟩
  have hslot : t.regs.slot = decodeFrame 0#32 := slot_of_exec_reset h
  have hv : rdAnswer sel t.regs.slot = some 0#64 := hslot ▸ rdAnswer_decodeFrame_zero sel hsel
  exact ⟨hslot, _, exec_of_rdAnswer t sel rfl hv, rfl⟩

/-- Settles O21: each operation's own refusal. -/
theorem reservedAndUnreachableOperationsRefuse : Obligations.ReservedAndUnreachableOperationsRefuse :=
  fun _ _ _ => ⟨rfl, rfl, rfl, rfl⟩

/-- Settles O40: the first read finds the old SLOT, the two after the publish find `DECODE(ACC)`, whose fields are
slices of the frame, in the snapshot by way of RAW. -/
theorem splitReadsStraddleAPublish : Obligations.SplitReadsStraddleAPublish := by
  intro s r
  refine ⟨_, _, _, _, exec_rdMode s, exec_acqFinish r _, exec_rdRange _, exec_rdSnap _, rfl, ?range, ?snapMode,
    ?snapRange⟩
  case range =>
    have hlt : (extRange s.regs.acc).toNat < 2 ^ 64 := (extRange s.regs.acc).isLt.trans (by decide)
    exact (BitVec.toNat_ofNat _ _).trans (Nat.mod_eq_of_lt hlt)
  case snapMode =>
    exact (snapWord_extract_raw _ (by decide)).trans (decodeFrame_field_eq_raw_slice s.regs.acc (by decide)).symm
  case snapRange =>
    exact (snapWord_extract_raw _ (by decide)).trans (decodeFrame_field_eq_raw_slice s.regs.acc (by decide)).symm

/-- Settles O47: the sign class follows MODE, and in mode 4 POL; the character follows the class. -/
theorem signCharacterFollowsTheTable : Obligations.SignCharacterFollowsTheTable := by
  refine ⟨fun ch m p => ?_, fun c => rfl⟩
  by_cases hdc : m = 4#3
  · by_cases hminus : p = 1#2 <;> simp [signOf, hdc, hminus, signCharWith]
  · by_cases hac : m = 2#3 <;> simp [signOf, hdc, hac, signCharWith]

end

section
/-! SUPPORT. Runs over a schedule, as folds over its inputs: what an input does to `S` and the draw counter, and that
reads do nothing to either (spec/20_memory.md R55, R61). -/

namespace Sys2Proof.Machine

/-! ### An input as a function of `S` and the draw counter -/

/-- `S` and the draw counter after the step of an input; `none` where the step is refused (R191). -/
def applyInput (c : Regs × Nat) : Input → Option (Regs × Nat)
  | .acq true _ _ => some (Regs.afterReset (Config.freeAcc c.2), c.2 + 1)
  | .acq false rdy sdata => (acqRegs c.1 rdy sdata).map (·, c.2)
  | .read sel => if sel.toNat ≤ 8 then some c else none

/-- `S` and the draw counter after a schedule. -/
def applyInputs (c : Regs × Nat) (evs : List Input) : Option (Regs × Nat) := evs.foldlM applyInput c

theorem applyInputs_cons (c : Regs × Nat) (e : Input) (evs : List Input) :
    applyInputs c (e :: evs) = (applyInput c e).bind (applyInputs · evs) := rfl

theorem applyInputs_append (c : Regs × Nat) (evs evs' : List Input) :
    applyInputs c (evs ++ evs') = (applyInputs c evs).bind (applyInputs · evs') := List.foldlM_append

/-- A scheduled step does to `S` and the draw counter what its input does; an ACQ step leaves RD_DATA. -/
theorem step_of_applyInput {s : State} {e : Input} {rest : List Input} {c : Regs × Nat} (hi : s.inputs = e :: rest)
    (h : applyInput (s.regs, s.draws) e = some c) :
    ∃ t, step s = .next t ∧ (t.regs, t.draws) = c ∧ t.inputs = rest ∧ (e.isAcq = true → t.rdData = s.rdData) := by
  have hnext : s.nextInput = e := s.nextInput_of_cons e rest hi
  have hdraws : s.present.draws = s.draws := s.present_draws_of_cons e rest hi
  have hrest : s.inputs.tail = rest := by rw [hi, List.tail_cons]
  cases e with
  | read sel =>
    simp only [applyInput, Option.ite_none_right_eq_some, Option.some.injEq] at h
    obtain ⟨hsel, rfl⟩ := h
    obtain ⟨v, hv⟩ := exists_rdAnswer hsel s.regs.slot
    exact ⟨s.present.setRdData v, by rw [step_read s sel hnext, hv], congrArg (s.regs, ·) hdraws, hrest, nofun⟩
  | acq rst rdy sdata =>
    cases rst with
    | true =>
      cases h
      exact ⟨_, step_reset s rdy sdata hnext, by rw [hdraws], hrest, fun _ => rfl⟩
    | false =>
      obtain ⟨r, hr, rfl⟩ := Option.map_eq_some_iff.1 h
      exact ⟨s.present.setRegs r, by rw [step_acq s rdy sdata hnext, hr], congrArg (r, ·) hdraws, hrest, fun _ => rfl⟩

/-- A run over a schedule does what its inputs do, and leaves what is scheduled after it. -/
theorem run_of_applyInputs {evs rest : List Input} {s : State} {c : Regs × Nat} (hi : s.inputs = evs ++ rest)
    (h : applyInputs (s.regs, s.draws) evs = some c) :
    ∃ t : State, Host.Core.run Sys2Proof.core evs.length s = .next t ∧ (t.regs, t.draws) = c ∧ t.inputs = rest
      ∧ ((∀ e ∈ evs, e.isAcq = true) → t.rdData = s.rdData) := by
  induction evs generalizing s with
  | nil =>
    cases h
    exact ⟨s, rfl, rfl, hi, fun _ => rfl⟩
  | cons e evs ih =>
    rw [applyInputs_cons, Option.bind_eq_some_iff] at h
    obtain ⟨c', he, hevs⟩ := h
    obtain ⟨u, hstep, rfl, hrest, hdata⟩ := step_of_applyInput hi he
    obtain ⟨t, hrun, hc, hin, hdata'⟩ := ih hrest hevs
    refine ⟨t, by rw [List.length_cons, run_of_step _ hstep, hrun], hc, hin, fun hacq => ?_⟩
    rw [hdata' fun e he => hacq e (List.mem_cons_of_mem _ he), hdata (hacq e List.mem_cons_self)]

/-- A run over the whole of a schedule. -/
theorem run_withInputs {evs : List Input} {s : State} {c : Regs × Nat}
    (h : applyInputs (s.regs, s.draws) evs = some c) :
    ∃ t : State, Host.Core.run Sys2Proof.core evs.length (s.withInputs evs) = .next t ∧ (t.regs, t.draws) = c
      ∧ t.inputs = [] := by
  have hin : (s.withInputs evs).inputs = evs ++ [] := (List.append_nil evs).symm
  obtain ⟨t, hrun, hc, hrest, _⟩ := run_of_applyInputs hin h
  exact ⟨t, hrun, hc, hrest⟩

/-! ### Well-formed schedules -/

/-- A well-formed input is taken in every used phase, and leaves one (R87, R191). -/
theorem exists_applyInput {c : Regs × Nat} {e : Input} (hp : c.1.phase ≠ .unused) (hw : e.wellFormed = true) :
    ∃ c', applyInput c e = some c' ∧ c'.1.phase ≠ .unused := by
  cases e with
  | read sel => exact ⟨c, if_pos (of_decide_eq_true hw), hp⟩
  | acq rst rdy sdata =>
    cases rst with
    | true => exact ⟨_, rfl, nofun⟩
    | false =>
      obtain ⟨r, hr⟩ : ∃ r, acqRegs c.1 rdy sdata = some r := by
        rw [← Option.isSome_iff_exists, acqRegs_isSome, decide_eq_true hp]
      exact ⟨_, by rw [applyInput, hr, Option.map_some], acqRegs_phase_ne_unused hr⟩

theorem exists_applyInputs {evs : List Input} {c : Regs × Nat} (hp : c.1.phase ≠ .unused)
    (hw : ∀ e ∈ evs, e.wellFormed = true) : ∃ c', applyInputs c evs = some c' := by
  induction evs generalizing c with
  | nil => exact ⟨c, rfl⟩
  | cons e evs ih =>
    rw [List.forall_mem_cons] at hw
    obtain ⟨c', he, hp'⟩ := exists_applyInput hp hw.1
    obtain ⟨c'', hevs⟩ := ih hp' hw.2
    exact ⟨c'', by rw [applyInputs_cons, he, Option.bind_some, hevs]⟩

/-- A defined read is the identity on `S` and the draw counter, so reads may be left out of a schedule (R61). -/
theorem applyInputs_filter_isAcq {evs : List Input} (c : Regs × Nat) (hw : ∀ e ∈ evs, e.wellFormed = true) :
    applyInputs c (evs.filter Input.isAcq) = applyInputs c evs := by
  induction evs generalizing c with
  | nil => rfl
  | cons e evs ih =>
    rw [List.forall_mem_cons] at hw
    obtain ⟨he, hevs⟩ := hw
    cases e with
    | read sel =>
      have hread : applyInput c (.read sel) = some c := if_pos (of_decide_eq_true he)
      rw [applyInputs_cons, hread, Option.bind_some, ← ih c hevs]
      rfl
    | acq rst rdy sdata =>
      have hkeep : (Input.acq rst rdy sdata :: evs).filter Input.isAcq = .acq rst rdy sdata :: evs.filter Input.isAcq :=
        rfl
      rw [hkeep, applyInputs_cons, applyInputs_cons]
      exact congrArg (Option.bind _) (funext fun c' => ih c' hevs)

theorem phase_used_of_controlOk {r : Regs} (h : r.controlOk = true) : r.phase ≠ .unused := by
  intro hp
  simp [Regs.controlOk, hp] at h

/-! ### The indicator (R198) -/

theorem finishesSinceReset_of_reset {n c : Nat} {s t : State} {rdy sdata : Level} (h : step s = .next t)
    (hf : s.fetch = .reset rdy sdata) : finishesSinceReset (n + 1) s c = finishesSinceReset n t 0 := by
  simp only [finishesSinceReset, h, hf]

theorem finishesSinceReset_of_acqFinish {n c : Nat} {s t : State} {r : Level} (h : step s = .next t)
    (hf : s.fetch = .acqFinish r) : finishesSinceReset (n + 1) s c = finishesSinceReset n t (c + 1) := by
  simp only [finishesSinceReset, h, hf]

theorem finishesSinceReset_of_other {n c : Nat} {s t : State} (h : step s = .next t)
    (hreset : ∀ rdy sdata, s.fetch ≠ .reset rdy sdata) (hfinish : ∀ r, s.fetch ≠ .acqFinish r) :
    finishesSinceReset (n + 1) s c = finishesSinceReset n t c := by
  rw [finishesSinceReset, h]
  dsimp only
  split
  next rdy sdata hf => exact absurd hf (hreset rdy sdata)
  next r hf => exact absurd hf (hfinish r)
  next => rfl

theorem not_parity (c : Nat) : (!decide (c % 2 = 1)) = decide ((c + 1) % 2 = 1) := by
  rw [← decide_not, decide_eq_decide]
  omega

end Sys2Proof.Machine

open Sys2Proof Sys2Proof.Machine

/-- Settles O25: a sound state has a used phase, so the schedule runs to its end, and every step keeps soundness. -/
theorem soundStatesAlwaysGoOn : Obligations.SoundStatesAlwaysGoOn := by
  intro evs s hs hw
  obtain ⟨c, hc⟩ := exists_applyInputs (c := (s.regs, s.draws)) (phase_used_of_controlOk hs.1) hw
  obtain ⟨t, hrun, _, hin⟩ := run_withInputs hc
  have hs' : Sound (s.withInputs evs) := hs
  exact ⟨t, hrun, run_keeps (fun _ _ => step_keeps_sound) hs' hrun, hin⟩

/-- Settles O32: both schedules run to their ends, and the fold over one is the fold over the other. -/
theorem readsDoNotDisturbAcquisition : Obligations.ReadsDoNotDisturbAcquisition := by
  intro evs s hp hw
  obtain ⟨c, hc⟩ := exists_applyInputs (c := (s.regs, s.draws)) hp hw
  have hc' : applyInputs (s.regs, s.draws) (evs.filter Input.isAcq) = some c := by
    rw [applyInputs_filter_isAcq _ hw, hc]
  obtain ⟨t, ht, htc, _⟩ := run_withInputs hc
  obtain ⟨u, hu, huc, _⟩ := run_withInputs hc'
  exact ⟨t, u, ht, hu, congrArg Prod.fst (htc.trans huc.symm)⟩

/-- Settles O39: RESET gives 0 to both sides, ACQ_FINISH inverts both, and every other operation keeps both. -/
theorem ledCarriesTheTransferParity : Obligations.LedCarriesTheTransferParity := by
  intro n
  induction n with
  | zero =>
    intro c s t hled h
    cases h
    exact hled
  | succ n ih =>
    intro c s t hled h
    rw [run_succ] at h
    cases hstep : step s with
    | fault f => rw [hstep] at h; cases h
    | refused q => rw [hstep] at h; cases h
    | next u =>
      rw [hstep] at h
      rcases step_published hstep with ⟨_, _, hf, _, hu⟩ | ⟨_, hf, _, hu⟩ | ⟨hreset, hfinish, _, hu⟩
      · rw [finishesSinceReset_of_reset hstep hf]
        exact ih 0 u t hu h
      · rw [finishesSinceReset_of_acqFinish hstep hf]
        exact ih (c + 1) u t (hu.trans (by rw [← not_parity, ← hled]; rfl)) h
      · rw [finishesSinceReset_of_other hstep hreset hfinish]
        exact ih c u t (hu.trans hled) h

end

section
/-! SUPPORT. The course of a transfer (spec/40_acquisition.md R108, R110, R112): the bits that samples leave in ACC,
what each of the 99 steps after a START leaves in `S`, and runs of a transfer. -/

namespace Sys2Proof.Machine

/-! ### Bits shifted into ACC (R108) -/

/-- The low `n` bits of ACC are the bits `0` to `n - 1` of a sequence, most significant first. -/
def AccHolds (acc : BitVec 32) (n : Nat) (bit : Nat → Option Level) : Prop :=
  ∀ i < n, bit i = some (acc.getLsbD (n - 1 - i))

theorem AccHolds.shiftIn {acc : BitVec 32} {n : Nat} {bit : Nat → Option Level} {d : Level} (h : AccHolds acc n bit)
    (hn : n < 32) (hd : bit n = some d) : AccHolds (shiftIn acc d) (n + 1) bit := by
  intro i hi
  rcases Nat.lt_succ_iff_lt_or_eq.1 hi with hlt | rfl
  · have hpos : n + 1 - 1 - i = (n - 1 - i) + 1 := by omega
    rw [hpos, shiftIn_getLsbD_succ _ _ _ (by omega), h i hlt]
  · rw [hd, Nat.add_sub_cancel, Nat.sub_self, shiftIn_getLsbD_zero]

theorem accHolds_foldl_shiftIn (acc : BitVec 32) {ds : List Level} (h : ds.length ≤ 32) :
    AccHolds (ds.foldl shiftIn acc) ds.length (ds[·]?) := by
  induction ds using List.reverseRecOn with
  | nil => exact nofun
  | append_singleton ds d ih =>
    rw [List.length_append, List.length_singleton] at h ⊢
    rw [List.foldl_concat]
    have hold : AccHolds (ds.foldl shiftIn acc) ds.length ((ds ++ [d])[·]?) := fun i hi =>
      (List.getElem?_append_left hi).trans (ih (by omega) i hi)
    exact hold.shiftIn (by omega) List.getElem?_concat_length

/-- The shifted ACC is even, so the new bit is added to it (R108). -/
theorem shiftIn_eq_add (acc : BitVec 32) (d : Level) : shiftIn acc d = acc <<< 1 + (BitVec.ofBool d).setWidth 32 := by
  rw [shiftIn, BitVec.add_eq_or_of_and_eq_zero]
  apply BitVec.eq_of_getLsbD_eq
  intro i _
  cases i <;> simp

theorem shiftIn_toNat (acc : BitVec 32) (d : Level) :
    (shiftIn acc d).toNat = (2 * acc.toNat + d.toNat) % 2 ^ 32 := by
  rw [shiftIn_eq_add, BitVec.toNat_add, BitVec.toNat_shiftLeft, BitVec.toNat_setWidth, Nat.shiftLeft_eq]
  cases d <;> simp <;> omega

theorem exec_acqSample (r : Level) (s : State) :
    exec (.acqSample r) s = .next { s with regs := { s.regs with
      acc := shiftIn s.regs.acc s.pins.sdata, cnt := s.regs.cnt + 1#6
      phase := if s.regs.cnt + 1#6 = 32#6 then .finish else .clkLo
      rdyPrev := s.pins.rdy } } := rfl

/-! ### PHASE, CNT and ACC along a busy step -/

/-- The phase after a busy step, `last` at the 32nd sample (R104 to R109). -/
def phaseAfter (last : Bool) : Phase → Phase
  | .idle => .idle
  | .loadLo => .loadHi
  | .loadHi => .clkLo
  | .clkLo => .clkHi
  | .clkHi => .sample
  | .sample => if last then .finish else .clkLo
  | .finish => .idle
  | .unused => .unused

theorem acqRegs_busy {r r' : Regs} {rdy sdata : Level} (hb : r.phase ≠ .idle) (h : acqRegs r rdy sdata = some r') :
    r'.phase = phaseAfter (decide (r.cnt.toNat + 1 = 32)) r.phase
    ∧ r'.cnt = (if r.phase = .sample then r.cnt + 1#6 else if r.phase = .finish then 0#6 else r.cnt)
    ∧ r'.acc = (if r.phase = .sample then shiftIn r.acc sdata else r.acc) := by
  cases hp : r.phase <;> simp only [acqRegs, hp, Option.some.injEq, reduceCtorEq] at h <;> subst h
  case idle => exact absurd hp hb
  case sample => simp [phaseAfter, cnt_add_one_eq_framePulses_iff]
  all_goals exact ⟨rfl, rfl, rfl⟩

/-! ### The phases of a transfer (R110) -/

theorem transferPhase_eq_idle_iff {k : Nat} : transferPhase k = .idle ↔ k = 99 := by
  unfold transferPhase; split_ifs <;> simp <;> omega

theorem transferPhase_ne_unused (k : Nat) : transferPhase k ≠ .unused := by
  unfold transferPhase; split_ifs <;> simp

theorem transferPhase_eq_loadLo_iff {k : Nat} : transferPhase k = .loadLo ↔ k = 0 := by
  unfold transferPhase; split_ifs <;> simp <;> omega

theorem transferPhase_eq_loadHi_iff {k : Nat} : transferPhase k = .loadHi ↔ k = 1 := by
  unfold transferPhase; split_ifs <;> simp <;> omega

theorem transferPhase_eq_clkLo_iff {k : Nat} (hk : k < 99) :
    transferPhase k = .clkLo ↔ k % 3 = 2 ∧ k ≤ 95 := by
  unfold transferPhase; split_ifs <;> simp <;> omega

theorem transferPhase_eq_clkHi_iff {k : Nat} (hk : k < 99) :
    transferPhase k = .clkHi ↔ k % 3 = 0 ∧ 3 ≤ k := by
  unfold transferPhase; split_ifs <;> simp <;> omega

theorem transferPhase_eq_sample_iff {k : Nat} (hk : k < 99) :
    transferPhase k = .sample ↔ k % 3 = 1 ∧ 4 ≤ k := by
  unfold transferPhase; split_ifs <;> simp <;> omega

theorem transferPhase_eq_finish_iff {k : Nat} : transferPhase k = .finish ↔ k = 98 := by
  unfold transferPhase; split_ifs <;> simp <;> omega

/-- R110: each of the 99 steps leads to the next phase of the sequence; `(k - 2) / 3` samples are taken by step `k`. -/
theorem phaseAfter_transferPhase {k : Nat} (hk : k < 99) :
    phaseAfter (decide ((k - 2) / 3 + 1 = 32)) (transferPhase k) = transferPhase (k + 1) := by
  revert k; decide

/-! ### The registers after step `k` of a transfer -/

/-- `S` after step `k` of a transfer that starts in `r₀`, with `ins` the levels of RDY and SDATA after the START (R110,
R112, R114). -/
structure TransferAt (r₀ : Regs) (ins : List (Level × Level)) (k : Nat) (r : Regs) : Prop where
  phase : r.phase = transferPhase k
  cnt : r.cnt.toNat = if k = 99 then 0 else (k - 2) / 3
  loadQ : r.loadQ = if k = 0 then r₀.loadQ else decide (k ≠ 1)
  clkQ : r.clkQ = if k < 3 then r₀.clkQ else !(decide (k ≤ 96) && decide (k % 3 = 0))
  ledQ : r.ledQ = if k = 99 then !r₀.ledQ else r₀.ledQ
  rdyPrev : ∀ p, 0 < k → ins[k - 1]? = some p → r.rdyPrev = p.1
  slot : r.slot = if k = 99 then decodeFrame r.acc else r₀.slot
  acc : AccHolds r.acc ((k - 2) / 3) fun i => ins[3 * i + 4]?.map Prod.snd

/-- A rising edge in IDLE starts a transfer (R102). -/
theorem transferAt_start {r : Regs} (hp : r.phase = .idle) (hr : r.rdyPrev = false) (sdata : Level)
    (ins : List (Level × Level)) : ∃ r', acqRegs r true sdata = some r' ∧ TransferAt r ins 0 r' := by
  refine ⟨{ r with cnt := 0#6, phase := .loadLo, rdyPrev := true }, by simp [acqRegs, hp, riseOf, hr], ?_⟩
  exact ⟨rfl, rfl, rfl, rfl, rfl, nofun, rfl, nofun⟩

/-- Each further step of a transfer takes it from step `k` to step `k + 1`. -/
theorem TransferAt.succ {r₀ r : Regs} {ins : List (Level × Level)} {k : Nat} (h : TransferAt r₀ ins k r) (hk : k < 99)
    {p : Level × Level} (hp : ins[k]? = some p) :
    ∃ r', acqRegs r p.1 p.2 = some r' ∧ TransferAt r₀ ins (k + 1) r' := by
  have hbusy : r.phase ≠ .idle := by rw [h.phase, Ne, transferPhase_eq_idle_iff]; omega
  have hcnt : r.cnt.toNat = (k - 2) / 3 := by rw [h.cnt, if_neg (by omega)]
  obtain ⟨r', hr⟩ : ∃ r', acqRegs r p.1 p.2 = some r' := by
    rw [← Option.isSome_iff_exists, acqRegs_isSome, decide_eq_true_iff, h.phase]
    exact transferPhase_ne_unused k
  obtain ⟨hphase', hcnt', hacc'⟩ := acqRegs_busy hbusy hr
  obtain ⟨hslot', hled'⟩ := acqRegs_published hr
  have hload' := acqRegs_loadQ hr
  have hclk' := acqRegs_clkQ hr
  simp only [h.phase, transferPhase_eq_loadLo_iff, transferPhase_eq_loadHi_iff, h.loadQ] at hload'
  simp only [h.phase, transferPhase_eq_clkLo_iff hk, transferPhase_eq_clkHi_iff hk, h.clkQ] at hclk'
  simp only [h.phase, transferPhase_eq_finish_iff, h.ledQ, h.slot, if_neg hk.ne] at hled' hslot'
  simp only [h.phase, transferPhase_eq_sample_iff hk, transferPhase_eq_finish_iff] at hacc' hcnt'
  refine ⟨r', hr, ?phase, ?cnt, ?loadQ, ?clkQ, ?ledQ, ?rdyPrev, ?slot, ?acc⟩
  case phase => rw [hphase', hcnt, h.phase, phaseAfter_transferPhase hk]
  case cnt =>
    rw [hcnt']
    by_cases hs : k % 3 = 1 ∧ 4 ≤ k
    · rw [if_pos hs, cnt_add_one_toNat (by omega), hcnt, if_neg (by omega)]
      omega
    by_cases hf : k = 98
    · rw [if_neg hs, if_pos hf, if_pos (by omega)]
      rfl
    · rw [if_neg hs, if_neg hf, hcnt, if_neg (by omega)]
      omega
  case loadQ => rw [hload']; rcases k with _ | _ | k <;> simp
  case clkQ => 
    rw [hclk']
    by_cases hlo : k % 3 = 2 ∧ k ≤ 95
    · have hpulse : (k + 1) % 3 = 0 ∧ k + 1 ≤ 96 := by omega
      simp [hlo, hpulse, show ¬ k + 1 < 3 by omega]
    by_cases hhi : k % 3 = 0 ∧ 3 ≤ k
    · have hpulse : (k + 1) % 3 = 1 := by omega
      simp [hhi, hpulse, show ¬ k + 1 < 3 by omega]
    rw [if_neg hlo, if_neg hhi]
    by_cases hstart : k < 3
    · rw [if_pos hstart, if_pos (by omega)]
    · have hhigh : k % 3 ≠ 0 := by omega
      have hhigh' : 96 ≤ k ∨ (k + 1) % 3 ≠ 0 := by omega
      simpa [hstart, hhigh, show ¬ k + 1 < 3 by omega] using hhigh'
  case ledQ => rw [hled']; exact if_congr (by omega) rfl rfl
  case rdyPrev =>
    intro q _ hq
    rw [Nat.add_sub_cancel, hp, Option.some.injEq] at hq
    rw [acqRegs_rdyPrev hr, hq]
  case slot =>
    rw [hslot']
    by_cases hf : k = 98
    · rw [if_pos hf, if_pos (by omega), hacc', if_neg (by omega)]
    · rw [if_neg hf, if_neg (by omega)]
  case acc =>
    rw [hacc']
    split_ifs with hs
    · have hm : (k + 1 - 2) / 3 = (k - 2) / 3 + 1 := by omega
      have hbit : 3 * ((k - 2) / 3) + 4 = k := by omega
      rw [hm]
      exact h.acc.shiftIn (by omega) (by rw [hbit, hp, Option.map_some])
    · have hm : (k + 1 - 2) / 3 = (k - 2) / 3 := by omega
      rw [hm]
      exact h.acc

/-! ### Runs of a transfer -/

/-- ACQ steps with RST = 0, by their levels of RDY and SDATA. -/
def acqInputs (ins : List (Level × Level)) : List Input := ins.map fun p => .acq false p.1 p.2

theorem acqInputs_append (ins ins' : List (Level × Level)) :
    acqInputs (ins ++ ins') = acqInputs ins ++ acqInputs ins' := List.map_append

theorem acqInputs_isAcq {ins : List (Level × Level)} {e : Input} (h : e ∈ acqInputs ins) : e.isAcq = true := by
  obtain ⟨p, _, rfl⟩ := List.mem_map.1 h
  rfl

/-- An edge in IDLE and `k` further ACQ steps lead to step `k` of a transfer (R110, R112). -/
theorem applyInputs_transfer {r : Regs} (n : Nat) (hp : r.phase = .idle) (hr : r.rdyPrev = false) (sdata : Level)
    (ins : List (Level × Level)) (k : Nat) (hk : k ≤ 99) (hlen : k ≤ ins.length) :
    ∃ r', applyInputs (r, n) (.acq false true sdata :: acqInputs (ins.take k)) = some (r', n)
      ∧ TransferAt r ins k r' := by
  induction k with
  | zero =>
    obtain ⟨r', hstart, hat⟩ := transferAt_start hp hr sdata ins
    exact ⟨r', by rw [applyInputs_cons, applyInput, hstart]; rfl, hat⟩
  | succ k ih =>
    obtain ⟨r', hrun, hat⟩ := ih (by omega) (by omega)
    have hget : ins[k]? = some ins[k] := List.getElem?_eq_getElem hlen
    obtain ⟨r'', hstep, hat'⟩ := hat.succ hk hget
    refine ⟨r'', ?_, hat'⟩
    rw [List.take_add_one, hget, acqInputs_append, ← List.cons_append, applyInputs_append, hrun, Option.bind_some,
      Option.toList_some, acqInputs, List.map_singleton, applyInputs_cons, applyInput, hstep]
    rfl

theorem run_transfer {s : State} (hp : s.regs.phase = .idle) (hr : s.regs.rdyPrev = false) (sdata : Level)
    (ins : List (Level × Level)) (rest : List Input) {k : Nat} (hk : k ≤ 99) (hlen : k ≤ ins.length) :
    ∃ t : State, Host.Core.run Sys2Proof.core (k + 1)
        (s.withInputs (.acq false true sdata :: acqInputs ins ++ rest)) = .next t
      ∧ t.inputs = acqInputs (ins.drop k) ++ rest ∧ t.rdData = s.rdData ∧ TransferAt s.regs ins k t.regs := by
  obtain ⟨r, happly, hat⟩ := applyInputs_transfer s.draws hp hr sdata ins k hk hlen
  have hsplit : (s.withInputs (.acq false true sdata :: acqInputs ins ++ rest)).inputs =
      (.acq false true sdata :: acqInputs (ins.take k)) ++ (acqInputs (ins.drop k) ++ rest) := by
    rw [List.cons_append (bs := acqInputs (ins.drop k) ++ rest), ← List.append_assoc, ← acqInputs_append,
      List.take_append_drop]
    rfl
  obtain ⟨t, hrun, hregs, hin, hdata⟩ := run_of_applyInputs hsplit happly
  rw [List.length_cons, acqInputs, List.length_map, List.length_take_of_le hlen] at hrun
  obtain ⟨rfl, _⟩ := Prod.mk.inj hregs
  exact ⟨t, hrun, hin, hdata (List.forall_mem_cons.2 ⟨rfl, fun _ => acqInputs_isAcq⟩), hat⟩

theorem phase_idle_of_acqOperation_eq_acqStart {p : Phase} {rise : Level} (h : acqOperation p rise = .acqStart) :
    p = .idle := by
  cases p
  case idle => rfl
  all_goals cases h

/-- START is selected in IDLE only (R78, R102). -/
theorem phase_idle_of_fetch_acqStart {s : State} (h : s.fetch = .acqStart) : s.regs.phase = .idle := by
  cases hi : s.nextInput with
  | read sel =>
    rw [State.fetch, hi, select_read] at h
    exact absurd h (decodeSel_ne_of_encodeSelector (by simp [encodeSelector]) sel)
  | acq rst rdy sdata =>
    cases rst with
    | true => rw [State.fetch, hi, select_reset] at h; cases h
    | false =>
      rw [fetch_of_acq hi] at h
      exact phase_idle_of_acqOperation_eq_acqStart h

/-- Inputs of ACQ steps with RST = 0 are given by their levels. -/
theorem exists_acqInputs {evs : List Input} (h : ∀ e ∈ evs, e.isAcq = true ∧ ∀ rdy sdata, e ≠ .acq true rdy sdata) :
    ∃ ins, evs = acqInputs ins := by
  induction evs with
  | nil => exact ⟨[], rfl⟩
  | cons e evs ih =>
    rw [List.forall_mem_cons] at h
    obtain ⟨⟨hacq, hrst⟩, hevs⟩ := h
    obtain ⟨ins, rfl⟩ := ih hevs
    cases e with
    | read sel => cases hacq
    | acq rst rdy sdata =>
      cases rst with
      | true => exact absurd rfl (hrst rdy sdata)
      | false => exact ⟨(rdy, sdata) :: ins, rfl⟩

/-- With RDY_PREV = 1 a high RDY is no edge, and the idle step writes back what stands (R101). -/
theorem acqRegs_idle_held {r : Regs} (hp : r.phase = .idle) (hr : r.rdyPrev = true) (sdata : Level) :
    acqRegs r true sdata = some r := by
  obtain ⟨phase, cnt, acc, loadQ, clkQ, ledQ, rdyPrev, slot⟩ := r
  cases hp
  cases hr
  rfl

theorem applyInputs_idle_held {c : Regs × Nat} (hp : c.1.phase = .idle) (hr : c.1.rdyPrev = true) (sds : List Level) :
    applyInputs c (sds.map fun d => .acq false true d) = some c := by
  induction sds with
  | nil => rfl
  | cons d sds ih => rw [List.map_cons, applyInputs_cons, applyInput, acqRegs_idle_held hp hr]; exact ih

/-! ### The lines of a stimulus program (R85) -/

/-- The levels that `XFER f` drives in steps 1 to 99. -/
def xferLevels (f : Frame) (rdy : Level) : List (Level × Level) :=
  (List.range' 1 99).map fun k => (rdy, isSampleStep k && f.getLsbD (31 - (k - 5) / 3))

theorem xferLevels_length (f : Frame) (rdy : Level) : (xferLevels f rdy).length = 99 := by
  rw [xferLevels, List.length_map, List.length_range']

theorem expandProgram_start_xfer (f : Frame) (rdy sd : Level) :
    expandProgram [.acq true sd, .xfer f rdy 1 99] = .acq false true sd :: acqInputs (xferLevels f rdy) ++ [] := by
  simp [expandProgram, expandLine, acqInputs, xferLevels, xferInput]

/-- The SAMPLE step of pulse `i` is step `3 i + 5`, and drives bit `31 - i` of the frame. -/
theorem xferLevels_getElem? (f : Frame) (rdy : Level) {i : Nat} (hi : i < 32) :
    (xferLevels f rdy)[3 * i + 4]? = some (rdy, f.getLsbD (31 - i)) := by
  have hsample : isSampleStep (3 * i + 5) = true := by
    simp [isSampleStep]
    omega
  have hpulse : (3 * i + 5 - 5) / 3 = i := by omega
  have hstep : 1 + (3 * i + 4) = 3 * i + 5 := by omega
  rw [xferLevels, List.getElem?_map, List.getElem?_range' (by omega), Option.map_some, Nat.one_mul, hstep, hsample,
    hpulse, Bool.true_and]

end Sys2Proof.Machine

open Sys2Proof Sys2Proof.Machine

/-- Settles O10: the operation's equation, read on numbers; each sample moves the bits before it up by one place. -/
theorem sampleShiftsOneBitIn : Obligations.SampleShiftsOneBitIn := by
  refine ⟨fun r s => ⟨decodeAsel_aselWord .sample r, _, exec_acqSample r s, rfl, shiftIn_toNat _ _,
      fun hcnt => cnt_add_one_toNat (by omega), ?phase, rfl, rfl⟩, fun acc ds hds i hi => ?bits,
    fun s hs hp => (strobes_high_of_controlOk hs.1 (.inr hp)).2⟩
  case phase => exact if_congr (cnt_add_one_eq_framePulses_iff s.regs.cnt) rfl rfl
  case bits =>
    have hold := accHolds_foldl_shiftIn acc hds.le
    rw [hds] at hold
    exact hold i hi

/-- Settles O33: reads are left out of the fold, and what is left is a transfer short of its step 99. -/
theorem readsDuringATransferSeeTheOldReading : Obligations.ReadsDuringATransferSeeTheOldReading := by
  intro s sd evs hp hr hevs hlen
  obtain ⟨ins, hins⟩ : ∃ ins, evs.filter Input.isAcq = acqInputs ins :=
    exists_acqInputs fun e he => ⟨(List.mem_filter.1 he).2, (hevs e (List.mem_filter.1 he).1).2⟩
  have hlen' : ins.length ≤ 98 := by rwa [hins, acqInputs, List.length_map] at hlen
  obtain ⟨r, hrun, hat⟩ := applyInputs_transfer s.draws hp hr sd ins ins.length (by omega) le_rfl
  have hfilter : (Input.acq false true sd :: evs).filter Input.isAcq = .acq false true sd :: acqInputs ins :=
    congrArg (Input.acq false true sd :: ·) hins
  have happly : applyInputs (s.regs, s.draws) (.acq false true sd :: evs) = some (r, s.draws) := by
    rw [← applyInputs_filter_isAcq _ (List.forall_mem_cons.2 ⟨rfl, fun e he => (hevs e he).1⟩), hfilter, ← hrun,
      List.take_length]
  obtain ⟨t, ht, hregs, hin⟩ := run_withInputs happly
  obtain ⟨rfl, _⟩ := Prod.mk.inj hregs
  have hbefore : ins.length ≠ 99 := by omega
  exact ⟨t, ht, hat.slot.trans (if_neg hbefore), hat.ledQ.trans (if_neg hbefore), hin⟩

/-- Settles O34: step 99 of a transfer. -/
theorem transferPublishesTheSampledFrame : Obligations.TransferPublishesTheSampledFrame := by
  intro s sd ins rest hp hr hlen
  obtain ⟨t, hrun, hin, hdata, hat⟩ := run_transfer hp hr sd ins rest le_rfl hlen.ge
  refine ⟨t, hrun, ?rest, hdata, hat.phase, BitVec.eq_of_toNat_eq hat.cnt, hat.loadQ, hat.clkQ, hat.ledQ, ?last,
    hat.slot, fun i hi => ?bit⟩
  case rest => rw [hin, List.drop_of_length_le hlen.le]; rfl
  case last =>
    have hget : ins[98]? = some ins[98] := List.getElem?_eq_getElem (by omega)
    exact ⟨_, hget, hat.rdyPrev _ (by decide) hget⟩
  case bit =>
    obtain ⟨p, hget, hbit⟩ := Option.map_eq_some_iff.1 (hat.acc i hi)
    exact ⟨p, hget, hbit.symm⟩

/-- Settles O35: step `k` of a transfer, with the strobe latches high at its start. -/
theorem transferFollowsItsWaveform : Obligations.TransferFollowsItsWaveform := by
  intro s sd ins k hp hr hload hclk hlen hk
  obtain ⟨t, hrun, _, _, hat⟩ := run_transfer hp hr sd ins [] hk (by omega)
  rw [List.append_nil] at hrun
  refine ⟨t, hrun, hat.phase, hat.cnt, hat.loadQ.trans ?load, hat.clkQ.trans ?sclk,
    fun hlt => ⟨hat.slot.trans (if_neg hlt.ne), hat.ledQ.trans (if_neg hlt.ne)⟩, fun h99 => hat.ledQ.trans (if_pos h99)⟩
  case load =>
    by_cases h0 : k = 0 <;> simp [h0, hload]
  case sclk =>
    by_cases h3 : k < 3
    · simp [h3, hclk, Nat.not_le.2 h3]
    · simp [h3, Nat.not_lt.1 h3]

/-- Settles O36: before step 99 a transfer is not in IDLE, where alone a START is selected; after step 99 it is, with
RDY_PREV the level of that step. -/
theorem startsAreAtLeast100StepsApart : Obligations.StartsAreAtLeast100StepsApart := by
  intro s sd ins rest hp hr hlen
  refine ⟨fun k t hk hrun hfetch => ?apart, fun d rest' p hget hlow hrest => ?reached⟩
  case apart =>
    obtain ⟨t', hrun', _, _, hat⟩ := run_transfer hp hr sd ins rest hk.le (by omega)
    obtain rfl : t = t' := Host.Outcome.next.inj (hrun.symm.trans hrun')
    have hidle : transferPhase k = .idle := hat.phase.symm.trans (phase_idle_of_fetch_acqStart hfetch)
    exact hk.ne (transferPhase_eq_idle_iff.1 hidle)
  case reached =>
    obtain ⟨t, hrun, hin, _, hat⟩ := run_transfer hp hr sd ins rest le_rfl hlen.ge
    have hnext : t.nextInput = .acq false true d := by
      refine t.nextInput_of_cons _ rest' ?_
      rw [hin, hrest, List.drop_of_length_le hlen.le]
      rfl
    have hprev : t.regs.rdyPrev = false := (hat.rdyPrev p (by decide) hget).trans hlow
    refine ⟨t, hrun, ?_⟩
    rw [State.fetch, hnext]
    exact select_acqStart d hat.phase ((riseOf_eq_true_iff t.regs true).2 ⟨hprev, rfl⟩)

/-- Settles O37: the lines are a START and a transfer whose SAMPLE steps drive the bits of `f`. -/
theorem xferMacroTransfersItsFrame : Obligations.XferMacroTransfersItsFrame := by
  intro s f rdy sd hp hr
  obtain ⟨t, hrun, hin, _, hat⟩ :=
    run_transfer hp hr sd (xferLevels f rdy) [] le_rfl (xferLevels_length f rdy).ge
  have hacc : t.regs.acc = f := by
    apply BitVec.eq_of_getLsbD_eq
    intro j hj
    have hbit := hat.acc (31 - j) (by omega)
    have hj' : 31 - (31 - j) = j := by omega
    simpa [xferLevels_getElem? f rdy (show 31 - j < 32 by omega), hj'] using hbit.symm
  refine ⟨t, by rw [expandProgram_start_xfer]; exact hrun, ?rest, hacc, hacc ▸ hat.slot, hat.phase⟩
  case rest => rw [hin, List.drop_of_length_le (xferLevels_length f rdy).le]; rfl

/-- Settles O38: every step of the schedule gives back the `S` it finds. -/
theorem rdyHeldHighStartsNothing : Obligations.RdyHeldHighStartsNothing := by
  intro sds s hp hr
  have happly := applyInputs_idle_held (c := (s.regs, s.draws)) hp hr sds
  obtain ⟨t, hrun, hregs, _⟩ := run_withInputs happly
  rw [List.length_map] at hrun
  exact ⟨t, hrun, congrArg Prod.fst hregs⟩

end
